-- ==== Sys2Proof/Word.lean ====
section
/-! DEFINITION. The word types of the Acoustic modem receiver: the 32-bit words of the command and
response ports (R70, R71, R75) and the 8-bit bytes of the Stream record (R31). -/

namespace Sys2Proof

/-- A command word or a response word: 32 bits, no byte order (R56). -/
abbrev Word := BitVec 32

/-- One byte: a framed byte (R145) or a byte of the Stream record (R31). -/
abbrev Byte := BitVec 8

end Sys2Proof
end

