-- ==== Sys2Proof/Syntax.lean ====
section
/-! DEFINITION. The commands: one constructor per row of spec/opcode_table.json (R73), with the
operand fields of R72. -/

namespace Sys2Proof

/-- One command of the opcode map (R73). An operand is the field R72 names, before any range check:
`sample` keeps the whole 28-bit argument, since which of its bits are the sample depends on
`SAMPLE_W`; the indices and selectors are unsigned numbers. The ignored bits of R72 carry nothing. -/
inductive Instr where
  /-- `NOP`, opcode 0x0 (R201). -/
  | nop
  /-- `SAMPLE`, opcode 0x1 (R202); `arg` is `cmd[27:0]`. -/
  | sample (arg : BitVec 28)
  /-- `RESET`, opcode 0x2 (R204). -/
  | reset
  /-- `READ_STATUS`, opcode 0x3 (R205). -/
  | readStatus
  /-- `READ_VALID`, opcode 0x4 (R206). -/
  | readValid
  /-- `READ_PAYLOAD`, opcode 0x5 (R207); `i` is `arg[10:0]`. -/
  | readPayload (i : Nat)
  /-- `READ_RECORD`, opcode 0x6 (R208); `o` is `arg[10:0]`. -/
  | readRecord (o : Nat)
  /-- `READ_DEBUG`, opcode 0x7 (R209); `sel` is `arg[3:0]`. -/
  | readDebug (sel : Nat)
  /-- `READ_WINDOW`, opcode 0x8 (R210); `k` is `arg[7:0]`. -/
  | readWindow (k : Nat)
  /-- `READ_CONFIG`, opcode 0x9 (R211); `sel` is `arg[3:0]`. -/
  | readConfig (sel : Nat)
  /-- Reserved opcode 0xA (R212). -/
  | reservedA
  /-- Reserved opcode 0xB (R212). -/
  | reservedB
  /-- Reserved opcode 0xC (R212). -/
  | reservedC
  /-- Reserved opcode 0xD (R212). -/
  | reservedD
  /-- Reserved opcode 0xE (R212). -/
  | reservedE
  /-- Reserved opcode 0xF (R212). -/
  | reservedF
deriving DecidableEq, Repr

end Sys2Proof
end

