-- ==== Sys2Proof/WellFormed.lean ====
section
/-! DEFINITION. Which commands can be written as a command word: each operand fits its field (R72,
and the check R87 asks of an assembler). -/

namespace Sys2Proof

/-- An operand fits its field of R72. A value that fits but is out of range is well formed: the block
answers it with an error at run time (R74, R87). -/
def Instr.wellFormed : Instr → Bool
  | .nop => true
  | .sample _ => true
  | .reset => true
  | .readStatus => true
  | .readValid => true
  | .readPayload i => decide (i < 2 ^ 11)
  | .readRecord o => decide (o < 2 ^ 11)
  | .readDebug sel => decide (sel < 2 ^ 4)
  | .readWindow k => decide (k < 2 ^ 8)
  | .readConfig sel => decide (sel < 2 ^ 4)
  | .reservedA => true
  | .reservedB => true
  | .reservedC => true
  | .reservedD => true
  | .reservedE => true
  | .reservedF => true

end Sys2Proof
end

