-- ==== Sys2Proof/Decode.lean ====
section
/-! DEFINITION. The decoder of command words, total on every 32-bit word (R71 to R74), and after it
the encoder. -/

namespace Sys2Proof

/-- `cmd[31:28]`, the opcode field (R71). -/
def opOf (cmd : Word) : BitVec 4 := cmd.extractLsb' 28 4

/-- `cmd[27:0]`, the argument (R71). -/
def argOf (cmd : Word) : BitVec 28 := cmd.extractLsb' 0 28

/-- `arg[n-1:0]` as an unsigned number: the index and selector operands of R72 (`zext_11`, `zext_8`,
`zext_4`). -/
def lowField (n : Nat) (arg : BitVec 28) : Nat := (arg.extractLsb' 0 n).toNat

/-- The command of a word: a total case split on the opcode bits `cmd[31:28]` (R73, R74, R200). The
four bits have sixteen values and each has its own row, so no word is refused and none falls through
to a neighbour. -/
def decode (cmd : Word) : Instr :=
  match cmd[31], cmd[30], cmd[29], cmd[28] with
  | false, false, false, false => .nop
  | false, false, false, true => .sample (argOf cmd)
  | false, false, true, false => .reset
  | false, false, true, true => .readStatus
  | false, true, false, false => .readValid
  | false, true, false, true => .readPayload (lowField 11 (argOf cmd))
  | false, true, true, false => .readRecord (lowField 11 (argOf cmd))
  | false, true, true, true => .readDebug (lowField 4 (argOf cmd))
  | true, false, false, false => .readWindow (lowField 8 (argOf cmd))
  | true, false, false, true => .readConfig (lowField 4 (argOf cmd))
  | true, false, true, false => .reservedA
  | true, false, true, true => .reservedB
  | true, true, false, false => .reservedC
  | true, true, false, true => .reservedD
  | true, true, true, false => .reservedE
  | true, true, true, true => .reservedF

/-- Why a string of bits is no command word. -/
inductive DecodeReject where
  /-- The bits do not fit one 32-bit command word: every command is exactly 32 bits (R71). Safe: the
  port carries nothing else. -/
  | notOneCommandWord
deriving DecidableEq, Repr

/-- Decode a number of `nbits` bits, bit 0 the least significant. Bits above `nbits` are 0. Anything
longer than one command word is rejected by name (R71: no prefixes, no longer forms). -/
def decodeBits (nbits w : Nat) : Except DecodeReject Instr :=
  if nbits ≤ 32 ∧ w < 2 ^ nbits then .ok (decode (BitVec.ofNat 32 w))
  else .error .notOneCommandWord

/-- The command the decoder reads from a row's bits, numbered as spec/opcode_table.json numbers them. -/
def decodeTableWord (nbits w : Nat) : Option Instr :=
  match decodeBits nbits w with
  | .ok i => some i
  | .error _ => none

/-- The opcode of each command (R73). -/
def opcode : Instr → BitVec 4
  | .nop => 0x0
  | .sample _ => 0x1
  | .reset => 0x2
  | .readStatus => 0x3
  | .readValid => 0x4
  | .readPayload _ => 0x5
  | .readRecord _ => 0x6
  | .readDebug _ => 0x7
  | .readWindow _ => 0x8
  | .readConfig _ => 0x9
  | .reservedA => 0xA
  | .reservedB => 0xB
  | .reservedC => 0xC
  | .reservedD => 0xD
  | .reservedE => 0xE
  | .reservedF => 0xF

/-- The argument an assembler writes: the operand in the low bits, every ignored bit 0 (R72, R87). -/
def argument : Instr → BitVec 28
  | .nop => 0
  | .sample arg => arg
  | .reset => 0
  | .readStatus => 0
  | .readValid => 0
  | .readPayload i => BitVec.ofNat 28 i
  | .readRecord o => BitVec.ofNat 28 o
  | .readDebug sel => BitVec.ofNat 28 sel
  | .readWindow k => BitVec.ofNat 28 k
  | .readConfig sel => BitVec.ofNat 28 sel
  | .reservedA => 0
  | .reservedB => 0
  | .reservedC => 0
  | .reservedD => 0
  | .reservedE => 0
  | .reservedF => 0

/-- The command word of a command: the opcode in bits 31:28, the argument in bits 27:0 (R71). -/
def encode (i : Instr) : Word := ((opcode i).setWidth 32 <<< 28) ||| (argument i).setWidth 32

/-- The `match` value of a command's row of the opcode map (R73). -/
def rowMatch : Instr → Word
  | .nop => 0x00000000
  | .sample _ => 0x10000000
  | .reset => 0x20000000
  | .readStatus => 0x30000000
  | .readValid => 0x40000000
  | .readPayload _ => 0x50000000
  | .readRecord _ => 0x60000000
  | .readDebug _ => 0x70000000
  | .readWindow _ => 0x80000000
  | .readConfig _ => 0x90000000
  | .reservedA => 0xA0000000
  | .reservedB => 0xB0000000
  | .reservedC => 0xC0000000
  | .reservedD => 0xD0000000
  | .reservedE => 0xE0000000
  | .reservedF => 0xF0000000

/-- The `mask` of every row of the opcode map (R73). -/
def rowMask : Word := 0xF0000000

end Sys2Proof
end

