-- ==== Sys2Proof/Config.lean ====
section
/-! DEFINITION. The construction-time parameters (R6, R7), the model's own choice of the one open
parameter for `State.reset`, and the fixed layout constants (R9). -/

namespace Sys2Proof

/-- The construction-time parameters of R6, fixed when the block is built. `clearCycles` is the
cycle-level parameter CLEAR_CYCLES of 93_implementation_defined.md U11 (assumption 3). -/
structure Params where
  /-- `RECT`, nominal half-period of a pulse in samples. -/
  rect : Nat
  /-- `W`, moving-average window size in samples. -/
  w : Nat
  /-- `LEAD_LEN`, framed 0xFF bytes in the leader. -/
  leadLen : Nat
  /-- `END_LEN`, framed 0xFF bytes in the end block. -/
  endLen : Nat
  /-- `SAMPLE_W`, bits of one sample. -/
  sampleW : Nat
  /-- `CLEAR_CYCLES`, cycles `cmd_ready` stays low after a reset (U11). -/
  clearCycles : Nat
deriving DecidableEq, Repr

/-- The legal ranges of R6. A configuration outside them is no block the spec describes (R7). -/
def Params.legal (p : Params) : Bool :=
  decide (1 ≤ p.rect) && decide (p.rect ≤ 43689) &&
  decide (1 ≤ p.w) && decide (p.w ≤ 256) &&
  decide (1 ≤ p.leadLen) && decide (p.leadLen ≤ 65535) &&
  decide (1 ≤ p.endLen) && decide (p.endLen ≤ 65535) &&
  decide (2 ≤ p.sampleW) && decide (p.sampleW ≤ 28)

namespace Config

/-- The parameters of `State.reset`: the defaults of R6. `RECT` has no default in the spec; 4 is the
value of the spec's own vectors (95_test_vectors.md section 0). DESIGN CHOICE, assumption 2, unsafe:
no statement rests on it, since every statement is about every legal `Params`. `CLEAR_CYCLES` is 0,
DESIGN CHOICE, assumption 3. -/
def default : Params :=
  { rect := 4, w := 4, leadLen := 652, endLen := 130, sampleW := 24, clearCycles := 0 }

/-- `MARKER0` (R9). -/
def marker0 : Byte := 0x42
/-- `MARKER1` (R9). -/
def marker1 : Byte := 0x03
/-- `TERM` (R9). -/
def term : Byte := 0x00
/-- `ALL_ONES` (R9). -/
def allOnes : Byte := 0xFF
/-- `MSG_DATA` (R9). -/
def msgData : Nat := 30
/-- `MSG_SIZE` (R9). -/
def msgSize : Nat := 31
/-- `MSG_COUNT` (R9). -/
def msgCount : Nat := 64
/-- `REC_SIZE` (R9): 2 + 64*31 + 1. -/
def recSize : Nat := 1987
/-- `PAYLOAD_SIZE` (R9): 64*30. -/
def payloadSize : Nat := 1920
/-- `FRAME_BITS` (R9). -/
def frameBits : Nat := 11

end Config

end Sys2Proof
end

