-- ==== Sys2Proof/Machine/State.lean ====
section
/-! DEFINITION. Everything the spec gives the machine as state (R20 to R33), grouped by the stage that
owns it, beside the parameters and the port inputs, and the state right after reset (R37). -/

namespace Sys2Proof.Machine

/-- The three-valued sign of R24 and R103. Its 2-bit pattern is `signCode`; the pattern `10`, never
held, has no value here (U9). -/
inductive Sign where
  /-- −1, pattern `11`. -/
  | neg
  /-- 0, pattern `00`. -/
  | zero
  /-- +1, pattern `01`. -/
  | pos
deriving DecidableEq, Repr

/-- The synchronizer's phase (R29). Code 3, never held, has no value here (U9). -/
inductive Phase where
  /-- Seeking-Leader, code 0. -/
  | seekLeader
  /-- In-Stream, code 1. -/
  | inStream
  /-- Seeking-End, code 2. -/
  | seekEnd
deriving DecidableEq, Repr

/-- The Stream record: (offset, byte) pairs, offsets strictly rising, none equal to 0x00, which is
what an unlisted offset reads as (R31). `Memory.wf` says this form holds. -/
abbrev Memory := List Host.Cell

/-- Edge Detector state (R21 to R25). Samples and their sum are exact integers (R100); that they fit
`SAMPLE_W` and `SUM_W` bits is part of `held` (assumption 8). -/
structure EdgeState where
  /-- `win`, entry `k` at position `k` (R21). -/
  win : List Int
  /-- `sum`, the running sum (R22). -/
  sum : Int
  /-- `widx`, the slot of the oldest sample (R23). -/
  widx : Nat
  /-- `cur_sign`, the sign of the current run (R24). -/
  curSign : Sign
  /-- `run_cnt`, the samples of the current run (R25). -/
  runCnt : BitVec 16
deriving DecidableEq, Repr

/-- Framer state (R27, R28). -/
structure FramerState where
  /-- `freg`, the Framing Register; bit 10 is the newest bit (R27). -/
  freg : BitVec 11
  /-- `fcnt`, bits since reset or the last match, 0 to 11 (R28). -/
  fcnt : Fin 12
deriving DecidableEq, Repr

/-- Block Synchronizer state (R29, R30). -/
structure SyncState where
  /-- `phase` (R29). -/
  phase : Phase
  /-- `rem`, the 0xFF bytes still needed (R30). -/
  rem : BitVec 16
deriving DecidableEq, Repr

/-- Payload Assembler state (R31, R32). -/
structure AsmState where
  /-- `rec`, the Stream record (R31). -/
  record : Memory
  /-- `wr_ptr`, the next unfilled offset, 0 to 1987 (R32). -/
  wrPtr : Fin 1988
deriving DecidableEq, Repr

/-- What the host drives on the input ports at one rising edge of `clk` (R70). -/
structure PinCycle where
  /-- `rst`. -/
  rst : Bool
  /-- `cmd_valid`. -/
  cmdValid : Bool
  /-- `cmd`. -/
  cmd : Word
deriving DecidableEq, Repr

/-- The state of the block (R20), with the parameters it was built with (assumption 1), the count
behind `cmd_ready` (assumption 3) and the coming port inputs (assumption 4). -/
structure State where
  /-- The construction-time parameters (R6). No step changes them (R252). -/
  cfg : Params
  /-- Edge Detector. -/
  edge : EdgeState
  /-- Bit-to-Byte Framer. -/
  framer : FramerState
  /-- Block Synchronizer. -/
  sync : SyncState
  /-- Payload Assembler. -/
  asm : AsmState
  /-- `resp`, the response register (R33). -/
  resp : Word
  /-- `resp_valid` (R33). -/
  respValid : Bool
  /-- Edges for which `cmd_ready` is still 0 after a reset (R70, R251, U11). -/
  clearLeft : Nat
  /-- What the host drives at each coming edge, the next edge first. Past its end the host drives
  nothing: `rst = 0`, `cmd_valid = 0`. -/
  pins : List PinCycle
deriving DecidableEq, Repr

/-- Why a step stops. None is reachable from reset (`Safety.lean`). -/
inductive Fault where
  /-- Raised by `step` when a command is accepted in a state that holds a value the spec says is never
  held and defines no command from (R21 to R23, R30, U9). Safe: such a state is not reached. -/
  | neverHeld
  /-- Raised by the window operations for an entry that does not exist (R50). Safe: `widx` and the
  checked index are below `W`. -/
  | windowEntry
  /-- Raised by the record operations for an offset outside 0 to 1986 (R50, the precondition of
  R181). Safe: IN_STREAM has `wr_ptr` below 1987. -/
  | recordOffset
  /-- Raised by the synchronizer for a leader byte while `rem` is already 0 (R30 gives SEEK_LEADER
  `rem` at least 1). Safe: such a state is not reached. -/
  | remUnderflow
deriving DecidableEq, Repr

/-- Why a step has no meaning. -/
inductive Refusal where
  /-- An instruction without a meaning yet, by its mnemonic. Raised by no arm of `exec`. Safe. -/
  | notModelled (mnemonic : String)
  /-- Raised by `step` for a configuration outside R6, which is not a block the spec describes and is
  refused (R7, U14). Safe. -/
  | illegalConfig
deriving DecidableEq, Repr

/-- The state `apply_reset()` and the `rst` port give a block built with parameters `p` (R37, R251),
with nothing driven on the ports. -/
def State.resetWith (p : Params) : State :=
  { cfg := p
    edge := { win := List.replicate p.w 0, sum := 0, widx := 0, curSign := .zero, runCnt := 0 }
    framer := { freg := 0, fcnt := 0 }
    sync := { phase := .seekLeader, rem := BitVec.ofNat 16 p.leadLen }
    asm := { record := [], wrPtr := 0 }
    resp := 0
    respValid := false
    clearLeft := p.clearCycles
    pins := [] }

/-- The machine right after reset (R37), built with the parameters of `Config.default`
(assumptions 2 and 3). -/
def State.reset : State := State.resetWith Config.default

end Sys2Proof.Machine
end

