-- ==== Sys2Proof/Machine/Ops.lean ====
section
/-! DEFINITION. The named operations every meaning is written with: the record's bytes, the window's
entries, the response register, the error response (the block's one exception mechanism, R231), reset
(R251) and the command port (R70, R200). -/

namespace Sys2Proof.Machine

/-! ### The Stream record, by byte (R31, R50, R57) -/

/-- The byte at an offset; an unlisted offset reads 0x00, the record's reset contents (R31). -/
def Memory.read : Memory → Nat → Byte
  | [], _ => 0#8
  | (a, b) :: m, o => if o = a then b else Memory.read m o

/-- Store a byte at an offset, keeping offsets rising and no entry equal to 0x00. -/
def Memory.write : Memory → Nat → Byte → Memory
  | [], o, v => if v = 0#8 then [] else [(o, v)]
  | (a, b) :: m, o, v =>
    if o < a then (if v = 0#8 then (a, b) :: m else (o, v) :: (a, b) :: m)
    else if o = a then (if v = 0#8 then m else (o, v) :: m)
    else (a, b) :: Memory.write m o v

/-- The canonical form, from a lowest allowed offset on. -/
def Memory.wfFrom : Nat → Memory → Bool
  | _, [] => true
  | lo, (a, b) :: m =>
    decide (lo ≤ a) && decide (a < Config.recSize) && decide (b ≠ 0#8) && Memory.wfFrom (a + 1) m

/-- The canonical form of the record: offsets strictly rising, all below 1987 (R50), no entry equal to
what an unlisted offset reads as. -/
def Memory.wf (m : Memory) : Bool := Memory.wfFrom 0 m

/-- `MemRead(o, 1)` (00_scope.md section 4): nothing exists outside offsets 0 to 1986 (R50). -/
def memRead (m : Memory) (o : Nat) : Option Byte :=
  if o < Config.recSize then some (Memory.read m o) else none

/-- `MemWrite(o, 1, v)` (00_scope.md section 4): nothing exists outside offsets 0 to 1986 (R50). -/
def memWrite (m : Memory) (o : Nat) (v : Byte) : Option Memory :=
  if o < Config.recSize then some (Memory.write m o v) else none

/-! ### The response register (R33, R200) -/

/-- `respond(v)`: `resp <- v` and `resp_valid <- 1` at the accepting edge (R33, R200). -/
def respond (v : Word) (s : State) : State := { s with resp := v, respValid := true }

/-- The host-interface errors (R232). -/
inductive ErrorCode where
  /-- `E_OPCODE`: a reserved opcode. -/
  | opcode
  /-- `E_RANGE`: an index out of its space. -/
  | range
  /-- `E_SELECT`: a reserved selector. -/
  | select
deriving DecidableEq, Repr

/-- The code of an error in bits 3:0 of its response (R232). -/
def errorNumber : ErrorCode → BitVec 4
  | .opcode => 1
  | .range => 2
  | .select => 3

/-- The error response `0x80000000 | code` (R231, R75). -/
def errorWord (c : ErrorCode) : Word := 0x80000000#32 ||| (errorNumber c).setWidth 32

/-- `raise Error(code)`: the error response, and no other state written (R231). The block has no trap:
nothing is saved and the next command proceeds normally (R234). -/
def raiseError (c : ErrorCode) (s : State) : State := respond (errorWord c) s

/-! ### Reset (R250, R251) -/

/-- `apply_reset()` with `resp <- 0` and `resp_valid <- 0` (R251). The parameters stay (R252) and so
does what the host drives next. `cmd_ready` is 0 for the next CLEAR_CYCLES edges (R251, U11). -/
def applyReset (s : State) : State := { State.resetWith s.cfg with pins := s.pins }

/-! ### The command port (R70, R200) -/

/-- `cmd_ready`: 1 but for the cycles spent clearing the record after a reset (R70, R251). -/
def cmdReady (s : State) : Bool := s.clearLeft == 0

/-- What the coming edge does with the ports. -/
inductive PortEvent where
  /-- `rst` is 1: it wins over any command (R260). -/
  | reset
  /-- A command word is accepted: `cmd_valid` and `cmd_ready` are 1 and `rst` is 0 (R70). -/
  | command (cmd : Word)
  /-- No command is accepted (R200). -/
  | idle
deriving DecidableEq, Repr

/-- What the coming edge does with the ports. Past the end of `pins` the host drives nothing. -/
def portEvent (s : State) : PortEvent :=
  match s.pins with
  | [] => .idle
  | c :: _ => if c.rst then .reset else if c.cmdValid && cmdReady s then .command c.cmd else .idle

/-- The edge has passed: the next edge's inputs come up. -/
def passEdge (s : State) : State := { s with pins := s.pins.tail }

/-- A cycle in which no command is accepted: `resp_valid <- 0` and nothing else changes (R200), but
for the count behind `cmd_ready` (R251). -/
def idleCycle (s : State) : State := { s with respValid := false, clearLeft := s.clearLeft - 1 }

end Sys2Proof.Machine
end

