-- ==== Sys2Proof/Machine/Control.lean ====
section
/-! DEFINITION. The meanings of `NOP` and `RESET` (R201, R204, R84). -/

namespace Sys2Proof.Machine

/-- `NOP`: responds 0 and does nothing else; it is no sample (R201). -/
def execNop (s : State) : Host.Outcome State Fault Refusal := .next (respond 0x00000000 s)

/-- `RESET`: `apply_reset()`, then the response 0 with `resp_valid` 1, since the command was accepted
(R204, R251). -/
def execReset (s : State) : Host.Outcome State Fault Refusal :=
  .next (respond 0x00000000 (applyReset s))

end Sys2Proof.Machine
end

