-- ==== Sys2Proof/Machine/Operands.lean ====
section
/-! DEFINITION. The operands of R72 and the numbers the registers hold: the sign-extended sample, the
ceiling logarithm and the widths that follow from the parameters (R8), and saturating increments. -/

namespace Sys2Proof.Machine

/-- `sext_SAMPLE_W(arg[SAMPLE_W-1:0])`, the sample of a `SAMPLE` command (R72, R202). The bits above
are ignored. -/
def sampleOperand (p : Params) (arg : BitVec 28) : Int := (arg.setWidth p.sampleW).toInt

/-- Search for `clog2` upward from `k`, at most `fuel` values. -/
def clog2From : Nat → Nat → Nat → Nat
  | 0, k, _ => k
  | fuel + 1, k, n => if n ≤ 2 ^ k then k else clog2From fuel (k + 1) n

/-- `clog2(n)`: the least `k` with `2^k >= n` (00_scope.md section 4). -/
def clog2 (n : Nat) : Nat := clog2From n 0 n

/-- `IDX_W` (R8). -/
def idxW (p : Params) : Nat := max 1 (clog2 p.w)

/-- `SUM_W` (R8, R100). -/
def sumW (p : Params) : Nat := p.sampleW + clog2 p.w

/-- An integer is a two's-complement value of `n` bits (00_scope.md section 4), for `n >= 1`. -/
def fitsSigned (n : Nat) (v : Int) : Bool :=
  decide (-((2 ^ (n - 1) : Nat) : Int) ≤ v) && decide (v < ((2 ^ (n - 1) : Nat) : Int))

/-- `sat_inc16` (00_scope.md section 4, R106). -/
def satInc16 (v : BitVec 16) : BitVec 16 := if v.toNat < 65535 then v + 1 else 65535

/-- `min(fcnt + 1, 11)` (R141, R143). -/
def satInc11 (c : Fin 12) : Fin 12 := ⟨min (c.val + 1) 11, by omega⟩

end Sys2Proof.Machine
end

