-- ==== Sys2Proof/Machine/PayloadAssembler.lean ====
section
/-! DEFINITION. Stage 5, the Payload Assembler (45_payload_assembler.md), with the payload's index map
(R52). -/

namespace Sys2Proof.Machine

/-- `assemble_write(y)` (R181): the byte goes to offset `wr_ptr`, which then increases. There is no
answer when the record is full, which R181's precondition excludes. -/
def assembleWrite (y : Byte) (a : AsmState) : Option AsmState :=
  if h : a.wrPtr.val < 1987 then
    match memWrite a.record a.wrPtr.val y with
    | none => none
    | some m => some { record := m, wrPtr := ⟨a.wrPtr.val + 1, by omega⟩ }
  else none

/-- The offset of data byte `j` of message `m` (R51); `j = 30` is the checksum's. -/
def msgOff (m j : Nat) : Nat := 2 + Config.msgSize * m + j

/-- `chk(m)`: the sum of a message's 30 data bytes modulo 256 (R183). -/
def chk (r : Memory) (m : Nat) : Byte :=
  BitVec.ofNat 8 ((List.range Config.msgData).map fun j => (Memory.read r (msgOff m j)).toNat).sum

/-- `valid_fn(rec)`: the marker, the terminator and all 64 checksums (R182). -/
def validFn (r : Memory) : Bool :=
  Memory.read r 0 == Config.marker0 && Memory.read r 1 == Config.marker1 &&
  Memory.read r 1986 == Config.term &&
  (List.range Config.msgCount).all fun m => Memory.read r (msgOff m Config.msgData) == chk r m

/-- `pay_off(i)`: the record offset of payload byte `i` (R52). -/
def payOff (i : Nat) : Nat := 2 + 31 * (i / 30) + i % 30

/-- `extract()`: the 1920 payload bytes in order (R184). -/
def extract (r : Memory) : List Byte :=
  (List.range Config.payloadSize).map fun i => Memory.read r (payOff i)

end Sys2Proof.Machine
end

