-- ==== Sys2Proof/Machine/Flags.lean ====
section
/-! DEFINITION. The derived status values (R34), the encodings of the sign and the phase (R24, R29,
R86), and the output ports (R70, R235). None is stored. -/

namespace Sys2Proof.Machine

/-- `cur_sign` as two bits of two's complement (R24). -/
def signCode : Sign → BitVec 2
  | .neg => 0b11
  | .zero => 0b00
  | .pos => 0b01

/-- `phase` as two bits (R29). -/
def phaseCode : Phase → BitVec 2
  | .seekLeader => 0
  | .inStream => 1
  | .seekEnd => 2

/-- `valid` (R34). -/
def validFlag (s : State) : Bool := validFn s.asm.record

/-- `record_full` (R34). -/
def recordFull (s : State) : Bool := s.asm.wrPtr.val == Config.recSize

/-- `end_done` (R34). -/
def endDone (s : State) : Bool := s.sync.phase == .seekEnd && s.sync.rem == 0

/-- `armed` (R34). -/
def armed (s : State) : Bool := s.framer.fcnt.val == 11

/-- The output ports (R70). -/
structure Outputs where
  /-- `cmd_ready`. -/
  cmdReady : Bool
  /-- `resp_valid`. -/
  respValid : Bool
  /-- `resp`. -/
  resp : Word
  /-- `st_phase`. -/
  stPhase : BitVec 2
  /-- `st_end_done`. -/
  stEndDone : Bool
  /-- `st_record_full`. -/
  stRecordFull : Bool
  /-- `st_valid`. -/
  stValid : Bool
deriving DecidableEq, Repr

/-- The output ports as functions of the state: `resp` and `resp_valid` show their registers, the
`st_*` outputs are combinational, unlatched and never masked (R70, R235). -/
def outputs (s : State) : Outputs :=
  { cmdReady := cmdReady s
    respValid := s.respValid
    resp := s.resp
    stPhase := phaseCode s.sync.phase
    stEndDone := endDone s
    stRecordFull := recordFull s
    stValid := validFlag s }

end Sys2Proof.Machine
end

