-- ==== Sys2Proof/Machine/PulseClassifier.lean ====
section
/-! DEFINITION. Stage 2, the Pulse Classifier (42_pulse_classifier.md). It holds no state (R26). -/

namespace Sys2Proof.Machine

/-- `T_LO = RECT // 2` (R120). -/
def tLo (p : Params) : Nat := p.rect / 2

/-- `T_HI = (RECT * 3) // 2` (R120). -/
def tHi (p : Params) : Nat := (p.rect * 3) / 2

/-- The class of a transition (R121). -/
inductive PulseClass where
  /-- `ZERO`: a long pulse, bit 0. -/
  | zero
  /-- `ONE`: a short pulse, bit 1. -/
  | one
  /-- `IGNORE`: line noise, no bit. -/
  | ignore
deriving DecidableEq, Repr

/-- `classify(d)` (R121). -/
def classify (p : Params) (d : BitVec 16) : PulseClass :=
  if d.toNat > tHi p then .zero else if d.toNat > tLo p then .one else .ignore

/-- The bit a class passes to the framer, if any (R122). -/
def classBit : PulseClass → Option Bool
  | .zero => some false
  | .one => some true
  | .ignore => none

/-- The class code of a transition (R85). -/
def classCode : PulseClass → BitVec 2
  | .ignore => 0b01
  | .zero => 0b10
  | .one => 0b11

end Sys2Proof.Machine
end

