-- ==== Sys2Proof/Machine/Responses.lean ====
section
/-! DEFINITION. The response words (R75 to R84). -/

namespace Sys2Proof.Machine

/-- What one sample did in each stage: the variables of R202's pseudocode. -/
structure SampleEvent where
  /-- `trans`: the Edge Detector reported a transition. -/
  trans : Bool
  /-- `cls`: the class code of R85, `00` without a transition. -/
  cls : BitVec 2
  /-- `bv`: the framer matched. -/
  bv : Bool
  /-- `stored`: the byte was written to the record. -/
  stored : Bool
  /-- `y`: the framed byte, else 0. -/
  y : Byte
  /-- `dur`: the ended run's duration, else 0. -/
  dur : BitVec 16
deriving DecidableEq, Repr

/-- One bit of a response word, as the number 0 or 1. -/
def flagWord (b : Bool) : Word := (BitVec.ofBool b).setWidth 32

/-- The `SAMPLE` response (R76, R203), with `ph` the phase after the command. -/
def sampleResp (e : SampleEvent) (ph : BitVec 2) : Word :=
  (flagWord e.trans <<< 30) ||| (e.cls.setWidth 32 <<< 28) ||| (flagWord e.bv <<< 27) |||
    (flagWord e.stored <<< 26) ||| (ph.setWidth 32 <<< 24) ||| (e.y.setWidth 32 <<< 16) |||
    e.dur.setWidth 32

/-- The `READ_STATUS` response (R77, R205). -/
def statusWord (s : State) : Word :=
  (phaseCode s.sync.phase).setWidth 32 ||| (flagWord (endDone s) <<< 2) ||| (flagWord (recordFull s) <<< 3) |||
    (flagWord (validFlag s) <<< 4) ||| (flagWord (armed s) <<< 5) |||
    ((signCode s.edge.curSign).setWidth 32 <<< 6) ||| (BitVec.ofNat 32 s.asm.wrPtr.val <<< 8)

/-- The `READ_VALID` response (R78). -/
def validWord (s : State) : Word := flagWord (validFlag s)

/-- A byte in bits 7:0 with a flag in bit 8 (R79, R80). -/
def flaggedByte (flag : Bool) (b : Byte) : Word := (flagWord flag <<< 8) ||| b.setWidth 32

/-- `sum` sign-extended to 64 bits (R81). -/
def sum64 (e : EdgeState) : BitVec 64 := BitVec.ofInt 64 e.sum

/-- `debug_word(sel)`; none for a reserved selector (R81, R209). Selectors 5 to 7 fill all 32 bits, so bit 31
is set for some successes although R75 says 0 (DEDUCED, unsafe, assumption 10). -/
def debugWord (sel : Nat) (s : State) : Option Word :=
  match sel with
  | 0 => some (s.sync.rem.setWidth 32)
  | 1 => some (s.edge.runCnt.setWidth 32)
  | 2 => some (BitVec.ofNat 32 s.framer.fcnt.val)
  | 3 => some (s.framer.freg.setWidth 32)
  | 4 => some (BitVec.ofNat 32 s.edge.widx)
  | 5 => some ((sum64 s.edge).extractLsb' 0 32)
  | 6 => some ((sum64 s.edge).extractLsb' 32 32)
  | 7 => some ((signCode s.edge.curSign).signExtend 32)
  | 8 => some ((phaseCode s.sync.phase).setWidth 32)
  | _ => none

/-- `config_value(sel)`; none for a reserved selector (R83, R211). -/
def configValue (sel : Nat) (p : Params) : Option Nat :=
  match sel with
  | 0 => some p.rect
  | 1 => some p.w
  | 2 => some p.leadLen
  | 3 => some p.endLen
  | 4 => some p.sampleW
  | 5 => some (tLo p)
  | 6 => some (tHi p)
  | _ => none

end Sys2Proof.Machine
end

