-- ==== Sys2Proof/Machine/Read.lean ====
section
/-! DEFINITION. The meanings of the READ commands (R205 to R211). Each writes no state but the response
register (R213). -/

namespace Sys2Proof.Machine

/-- `READ_STATUS` (R205). -/
def execReadStatus (s : State) : Host.Outcome State Fault Refusal := .next (respond (statusWord s) s)

/-- `READ_VALID` (R206). -/
def execReadValid (s : State) : Host.Outcome State Fault Refusal := .next (respond (validWord s) s)

/-- `READ_PAYLOAD i` (R207): the stored byte with `valid` in bit 8, whatever `valid` is. -/
def execReadPayload (i : Nat) (s : State) : Host.Outcome State Fault Refusal :=
  if i ≥ Config.payloadSize then .next (raiseError .range s)
  else
    match memRead s.asm.record (payOff i) with
    | none => .fault .recordOffset
    | some b => .next (respond (flaggedByte (validFlag s) b) s)

/-- `READ_RECORD o` (R208): the raw byte with `filled = (o < wr_ptr)` in bit 8. -/
def execReadRecord (o : Nat) (s : State) : Host.Outcome State Fault Refusal :=
  if o ≥ Config.recSize then .next (raiseError .range s)
  else
    match memRead s.asm.record o with
    | none => .fault .recordOffset
    | some b => .next (respond (flaggedByte (decide (o < s.asm.wrPtr.val)) b) s)

/-- `READ_DEBUG sel` (R209). -/
def execReadDebug (sel : Nat) (s : State) : Host.Outcome State Fault Refusal :=
  match debugWord sel s with
  | none => .next (raiseError .select s)
  | some v => .next (respond v s)

/-- `READ_WINDOW k` (R210): entry `k` in slot order, sign-extended to 32 bits (R82). Bit 31 is then the sign of
the entry although R75 says 0 for a success (DEDUCED, unsafe, assumption 10). -/
def execReadWindow (k : Nat) (s : State) : Host.Outcome State Fault Refusal :=
  if k ≥ s.cfg.w then .next (raiseError .range s)
  else
    match s.edge.win[k]? with
    | none => .fault .windowEntry
    | some x => .next (respond (BitVec.ofInt 32 x) s)

/-- `READ_CONFIG sel` (R211): a parameter or derived constant, zero-extended (R83). -/
def execReadConfig (sel : Nat) (s : State) : Host.Outcome State Fault Refusal :=
  match configValue sel s.cfg with
  | none => .next (raiseError .select s)
  | some v => .next (respond (BitVec.ofNat 32 v) s)

end Sys2Proof.Machine
end

