-- ==== Sys2Proof/Machine/Reserved.lean ====
section
/-! DEFINITION. The meanings of the reserved opcodes 0xA to 0xF: the error response `E_OPCODE` and no
state change (R74, R212). -/

namespace Sys2Proof.Machine

/-- Reserved opcode 0xA (R212). -/
def execReservedA (s : State) : Host.Outcome State Fault Refusal := .next (raiseError .opcode s)

/-- Reserved opcode 0xB (R212). -/
def execReservedB (s : State) : Host.Outcome State Fault Refusal := .next (raiseError .opcode s)

/-- Reserved opcode 0xC (R212). -/
def execReservedC (s : State) : Host.Outcome State Fault Refusal := .next (raiseError .opcode s)

/-- Reserved opcode 0xD (R212). -/
def execReservedD (s : State) : Host.Outcome State Fault Refusal := .next (raiseError .opcode s)

/-- Reserved opcode 0xE (R212). -/
def execReservedE (s : State) : Host.Outcome State Fault Refusal := .next (raiseError .opcode s)

/-- Reserved opcode 0xF (R212). -/
def execReservedF (s : State) : Host.Outcome State Fault Refusal := .next (raiseError .opcode s)

end Sys2Proof.Machine
end

