-- ==== Sys2Proof/Machine/BlockSync.lean ====
section
/-! DEFINITION. Stage 4, the Block Synchronizer (44_block_synchronizer.md). -/

namespace Sys2Proof.Machine

/-- `LEAD_LEN` as the 16-bit `rem` holds it (R30). -/
def leadRem (p : Params) : BitVec 16 := BitVec.ofNat 16 p.leadLen

/-- `END_LEN` as the 16-bit `rem` holds it (R30). -/
def endRem (p : Params) : BitVec 16 := BitVec.ofNat 16 p.endLen

/-- What one framed byte leaves: the synchronizer, the assembler, and whether the byte was stored. -/
structure SyncResult where
  /-- The synchronizer after the byte. -/
  sync : SyncState
  /-- The assembler after the byte. -/
  asm : AsmState
  /-- `stored` (R161). -/
  stored : Bool
deriving DecidableEq, Repr

/-- A byte in SEEK_LEADER (R162). `rem` is at least 1 there (R30); counting below 0 has no meaning. -/
def leaderByte (p : Params) (y : Byte) (sy : SyncState) (a : AsmState) : Except Fault SyncResult :=
  if y = Config.allOnes then
    if sy.rem = 0#16 then .error .remUnderflow
    else
      .ok { sync := { phase := if sy.rem - 1#16 = 0#16 then .inStream else .seekLeader, rem := sy.rem - 1#16 }
            asm := a, stored := false }
  else .ok { sync := { phase := .seekLeader, rem := leadRem p }, asm := a, stored := false }

/-- A byte in IN_STREAM (R163, R164): stored whatever its value; the byte that fills the record moves
the phase to SEEK_END and loads `rem` with `END_LEN`. -/
def streamByte (p : Params) (y : Byte) (sy : SyncState) (a : AsmState) : Except Fault SyncResult :=
  match assembleWrite y a with
  | none => .error .recordOffset
  | some a' =>
    .ok { sync := if a.wrPtr.val + 1 = Config.recSize then { phase := .seekEnd, rem := endRem p } else sy
          asm := a', stored := true }

/-- A byte in SEEK_END (R165, R166): counted until the end block is satisfied, then ignored. -/
def endByte (p : Params) (y : Byte) (sy : SyncState) (a : AsmState) : SyncResult :=
  if sy.rem = 0#16 then { sync := sy, asm := a, stored := false }
  else if y = Config.allOnes then { sync := { sy with rem := sy.rem - 1#16 }, asm := a, stored := false }
  else { sync := { sy with rem := endRem p }, asm := a, stored := false }

/-- `sync_submit(y)` (R161). -/
def syncSubmit (p : Params) (y : Byte) (sy : SyncState) (a : AsmState) : Except Fault SyncResult :=
  match sy.phase with
  | .seekLeader => leaderByte p y sy a
  | .inStream => streamByte p y sy a
  | .seekEnd => .ok (endByte p y sy a)

end Sys2Proof.Machine
end

