-- ==== Sys2Proof/Machine/EdgeDetector.lean ====
section
/-! DEFINITION. Stage 1, the Edge Detector (41_edge_detector.md). -/

namespace Sys2Proof.Machine

/-- `sign(v)`: −1, 0 or +1 (R103). -/
def signOf (v : Int) : Sign := if v < 0 then .neg else if v = 0 then .zero else .pos

/-- `edge_observe(s)` (R102): the sample replaces the oldest one, the sum and the index move, and a
change of the three-valued sign is a transition that reports the ended run's length (R104, R105). The
second component is `Transition(dur)` or `None`. There is no answer when `win[widx]` does not exist,
which R23 excludes. -/
def edgeObserve (p : Params) (x : Int) (e : EdgeState) : Option (EdgeState × Option (BitVec 16)) :=
  match e.win[e.widx]? with
  | none => none
  | some old =>
    let sum' := e.sum - old + x
    let moved := { e with win := e.win.set e.widx x, widx := (e.widx + 1) % p.w, sum := sum' }
    if signOf sum' ≠ e.curSign then
      some ({ moved with curSign := signOf sum', runCnt := 1 }, some e.runCnt)
    else
      some ({ moved with runCnt := satInc16 e.runCnt }, none)

end Sys2Proof.Machine
end

