-- ==== Sys2Proof/Machine/Framer.lean ====
section
/-! DEFINITION. Stage 3, the Bit-to-Byte Framer (43_framer.md). -/

namespace Sys2Proof.Machine

/-- `freg' = (b << 10) | (freg >> 1)`: the new bit enters at bit 10 and bit 0 drops out (R142). -/
def shiftIn (b : Bool) (r : BitVec 11) : BitVec 11 :=
  ((BitVec.ofBool b).setWidth 11 <<< 10) ||| (r >>> 1)

/-- The match condition: stop bits 1 1 on top and start bit 0 at the bottom (R144). -/
def frameMatch (r : BitVec 11) : Bool := r &&& 0x601#11 == 0x600#11

/-- The byte of a match, `freg'[8:1]` (R145). -/
def frameByte (r : BitVec 11) : Byte := r.extractLsb' 1 8

/-- `frame_push(b)` (R141). The second component is `Byte(y)` or `None`. -/
def framePush (b : Bool) (f : FramerState) : FramerState × Option Byte :=
  let freg' := shiftIn b f.freg
  let fcnt' := satInc11 f.fcnt
  if fcnt' = 11 ∧ frameMatch freg' then ({ freg := freg', fcnt := 0 }, some (frameByte freg'))
  else ({ freg := freg', fcnt := fcnt' }, none)

end Sys2Proof.Machine
end

