-- ==== Sys2Proof/Machine/Sample.lean ====
section
/-! DEFINITION. The meaning of `SAMPLE`: one sample through the five stages in the order of R2
(R202). -/

namespace Sys2Proof.Machine

/-- No transition: every variable of R202 keeps its initial 0. -/
def quietEvent : SampleEvent :=
  { trans := false, cls := 0b00, bv := false, stored := false, y := 0, dur := 0 }

/-- A transition of duration `d` and class `c`, before the framer (R202). -/
def transEvent (d : BitVec 16) (c : PulseClass) : SampleEvent :=
  { quietEvent with trans := true, cls := classCode c, dur := d }

/-- A framed byte through the Block Synchronizer and the Payload Assembler (R202, R161). -/
def byteStages (y : Byte) (ev : SampleEvent) (s : State) : Except Fault (State × SampleEvent) :=
  match syncSubmit s.cfg y s.sync s.asm with
  | .error f => .error f
  | .ok r =>
    .ok ({ s with sync := r.sync, asm := r.asm }, { ev with bv := true, y := y, stored := r.stored })

/-- A bit through the framer and, on a match, the stages after it (R202, R141). -/
def bitStages (b : Bool) (ev : SampleEvent) (s : State) : Except Fault (State × SampleEvent) :=
  match framePush b s.framer with
  | (f, none) => .ok ({ s with framer := f }, ev)
  | (f, some y) => byteStages y ev { s with framer := f }

/-- A transition through the classifier and, for a bit, the stages after it (R202, R121, R122). -/
def transStages (d : BitVec 16) (s : State) : Except Fault (State × SampleEvent) :=
  match classBit (classify s.cfg d) with
  | none => .ok (s, transEvent d (classify s.cfg d))
  | some b => bitStages b (transEvent d (classify s.cfg d)) s

/-- One sample through the five stages (R2, R202): the state after it and what each stage did. -/
def sampleStages (x : Int) (s : State) : Except Fault (State × SampleEvent) :=
  match edgeObserve s.cfg x s.edge with
  | none => .error .windowEntry
  | some (e, none) => .ok ({ s with edge := e }, quietEvent)
  | some (e, some d) => transStages d { s with edge := e }

/-- `SAMPLE` (R202, R203). The response shows `phase` after the command. -/
def execSample (arg : BitVec 28) (s : State) : Host.Outcome State Fault Refusal :=
  match sampleStages (sampleOperand s.cfg arg) s with
  | .error f => .fault f
  | .ok (t, ev) => .next (respond (sampleResp ev (phaseCode t.sync.phase)) t)

end Sys2Proof.Machine
end

