-- ==== Sys2Proof/Machine/Dispatch.lean ====
section
/-! DEFINITION. The meaning of every command, one arm each (R200). -/

namespace Sys2Proof.Machine

def exec (i : Instr) (s : State) : Host.Outcome State Fault Refusal :=
  match i with
  | .nop => Sys2Proof.Machine.execNop s
  | .sample arg => Sys2Proof.Machine.execSample arg s
  | .reset => Sys2Proof.Machine.execReset s
  | .readStatus => Sys2Proof.Machine.execReadStatus s
  | .readValid => Sys2Proof.Machine.execReadValid s
  | .readPayload n => Sys2Proof.Machine.execReadPayload n s
  | .readRecord o => Sys2Proof.Machine.execReadRecord o s
  | .readDebug sel => Sys2Proof.Machine.execReadDebug sel s
  | .readWindow k => Sys2Proof.Machine.execReadWindow k s
  | .readConfig sel => Sys2Proof.Machine.execReadConfig sel s
  | .reservedA => Sys2Proof.Machine.execReservedA s
  | .reservedB => Sys2Proof.Machine.execReservedB s
  | .reservedC => Sys2Proof.Machine.execReservedC s
  | .reservedD => Sys2Proof.Machine.execReservedD s
  | .reservedE => Sys2Proof.Machine.execReservedE s
  | .reservedF => Sys2Proof.Machine.execReservedF s

end Sys2Proof.Machine
end

