-- ==== Sys2Proof/Machine/Held.lean ====
section
/-! DEFINITION. The values the state elements can hold (R21 to R32, U9). `fcnt`, `cur_sign`, `phase` and
`wr_ptr` exclude the values never held by their types; what depends on the parameters or on another
element is checked here. -/

namespace Sys2Proof.Machine

/-- The window has `W` entries of `SAMPLE_W` bits, the sum fits `SUM_W` bits and `widx` is a slot
(R21 to R23). -/
def edgeHeld (p : Params) (e : EdgeState) : Bool :=
  decide (e.win.length = p.w) && e.win.all (fitsSigned p.sampleW) && fitsSigned (sumW p) e.sum &&
  decide (e.widx < p.w)

/-- `rem` is in its range for the phase (R30). -/
def remHeld (p : Params) (sy : SyncState) : Bool :=
  match sy.phase with
  | .seekLeader => decide (1 ≤ sy.rem.toNat) && decide (sy.rem.toNat ≤ p.leadLen)
  | .inStream => decide (sy.rem.toNat = 0)
  | .seekEnd => decide (sy.rem.toNat ≤ p.endLen)

/-- Every element holds a value it can hold. From any other state no command is defined (U9). -/
def held (s : State) : Bool := edgeHeld s.cfg s.edge && remHeld s.cfg s.sync

end Sys2Proof.Machine
end

