-- ==== Sys2Proof/Machine/Step.lean ====
section
/-! DEFINITION. One step: one rising edge of `clk` (R200, R258). -/

namespace Sys2Proof.Machine

/-- One rising edge of `clk`. A configuration outside R6 is refused (R7, U14). `rst` resets from any
state (R250, R260, R253). An accepted command is decoded and executed whole (R200, R58), unless the
state holds a value that is never held (U9). With no command accepted, R200's idle cycle. -/
def step (s : State) : Host.Outcome State Fault Refusal :=
  if s.cfg.legal then
    match portEvent s with
    | .reset => .next (applyReset (passEdge s))
    | .idle => .next (idleCycle (passEdge s))
    | .command cmd => if held s then exec (decode cmd) (passEdge s) else .fault .neverHeld
  else .refused .illegalConfig

/-- `s` with the host offering the command word `w` at the coming edge and the port ready to accept
it: the next `step` decodes and runs exactly that word (assumption 4). `nbits` is 32 for every row; a
row of fewer bits has zeros above. -/
def State.withFetchWord (s : State) (nbits w : Nat) : State :=
  { s with
    clearLeft := 0
    pins := { rst := false, cmdValid := true, cmd := BitVec.ofNat 32 (w % 2 ^ nbits) } :: s.pins }

end Sys2Proof.Machine
end

