-- ==== Sys2Proof/Machine/Assembler.lean ====
section
/-! DEFINITION. The command assembly syntax (R87) and its one pseudo-instruction (R88). -/

namespace Sys2Proof.Machine

/-- One line of assembly with its operands as integers (R87, R88). -/
inductive AsmCommand where
  /-- `NOP` -/
  | nop
  /-- `SAMPLE v` -/
  | sample (v : Int)
  /-- `RESET` -/
  | reset
  /-- `READ_STATUS` -/
  | readStatus
  /-- `READ_VALID` -/
  | readValid
  /-- `READ_PAYLOAD i` -/
  | readPayload (i : Int)
  /-- `READ_RECORD o` -/
  | readRecord (o : Int)
  /-- `READ_DEBUG sel` -/
  | readDebug (sel : Int)
  /-- `READ_WINDOW k` -/
  | readWindow (k : Int)
  /-- `READ_CONFIG sel` -/
  | readConfig (sel : Int)
  /-- `HOLD v, n` (R88) -/
  | hold (v n : Int)
deriving DecidableEq, Repr

/-- An operand for an unsigned field of `n` bits; none when it does not fit (R87). -/
def fieldOperand (n : Nat) (v : Int) : Option Nat :=
  if 0 ≤ v ∧ v < ((2 ^ n : Nat) : Int) then some v.toNat else none

/-- `trunc_SAMPLE_W(v)` with the bits above the sample 0; none when `v` is no sample (R87). -/
def sampleArgument (p : Params) (v : Int) : Option (BitVec 28) :=
  if fitsSigned p.sampleW v then some ((BitVec.ofInt p.sampleW v).setWidth 28) else none

/-- The commands of a line; none when the assembler refuses an operand (R87, R88). -/
def assembleCommand (p : Params) : AsmCommand → Option (List Instr)
  | .nop => some [.nop]
  | .sample v => (sampleArgument p v).map fun a => [.sample a]
  | .reset => some [.reset]
  | .readStatus => some [.readStatus]
  | .readValid => some [.readValid]
  | .readPayload i => (fieldOperand 11 i).map fun n => [.readPayload n]
  | .readRecord o => (fieldOperand 11 o).map fun n => [.readRecord n]
  | .readDebug sel => (fieldOperand 4 sel).map fun n => [.readDebug n]
  | .readWindow k => (fieldOperand 8 k).map fun n => [.readWindow n]
  | .readConfig sel => (fieldOperand 4 sel).map fun n => [.readConfig n]
  | .hold v n =>
    if 1 ≤ n then (sampleArgument p v).map fun a => List.replicate n.toNat (.sample a) else none

/-- The command words of a line (R87). -/
def assemble (p : Params) (c : AsmCommand) : Option (List Word) :=
  (assembleCommand p c).map (List.map encode)

/-! ### Reading a line of text (R87) -/

/-- Everything after `;` is a comment. -/
def stripComment : List Char → List Char
  | [] => []
  | c :: cs => if c = ';' then [] else c :: stripComment cs

/-- A finished token, if any; the letters were collected in reverse. -/
def flushToken (acc : List Char) : List (List Char) := if acc = [] then [] else [acc.reverse]

/-- Cut a line into tokens at blanks; a comma is a token of its own. -/
def tokens : List Char → List Char → List (List Char)
  | [], acc => flushToken acc
  | c :: cs, acc =>
    if c = ' ' ∨ c = '\t' then flushToken acc ++ tokens cs []
    else if c = ',' then flushToken acc ++ [','] :: tokens cs []
    else tokens cs (c :: acc)

/-- A decimal digit's value. -/
def decimalDigit (c : Char) : Option Nat :=
  if '0'.toNat ≤ c.toNat ∧ c.toNat ≤ '9'.toNat then some (c.toNat - '0'.toNat) else none

/-- A hexadecimal digit's value, either case (assumption 9). -/
def hexDigit (c : Char) : Option Nat :=
  if 'a'.toNat ≤ c.toNat ∧ c.toNat ≤ 'f'.toNat then some (c.toNat - 'a'.toNat + 10)
  else if 'A'.toNat ≤ c.toNat ∧ c.toNat ≤ 'F'.toNat then some (c.toNat - 'A'.toNat + 10)
  else decimalDigit c

/-- Digits of a base, the most significant first, after the value `acc`. -/
def digitsValue (base : Nat) (digit : Char → Option Nat) : List Char → Nat → Option Nat
  | [], acc => some acc
  | c :: cs, acc =>
    match digit c with
    | none => none
    | some d => digitsValue base digit cs (acc * base + d)

/-- A non-empty run of digits. -/
def natValue (base : Nat) (digit : Char → Option Nat) (cs : List Char) : Option Nat :=
  if cs = [] then none else digitsValue base digit cs 0

/-- An operand: decimal, with a minus sign if negative, or hexadecimal after `0x` (R87). -/
def operandValue : List Char → Option Int
  | '-' :: cs => (natValue 10 decimalDigit cs).map fun n => -(n : Int)
  | '0' :: 'x' :: cs => (natValue 16 hexDigit cs).map fun n => (n : Int)
  | cs => (natValue 10 decimalDigit cs).map fun n => (n : Int)

/-- The mnemonics that take no operand (R73, R87). -/
def plainCommand (m : List Char) : Option AsmCommand :=
  if m = ['N', 'O', 'P'] then some .nop
  else if m = ['R', 'E', 'S', 'E', 'T'] then some .reset
  else if m = ['R', 'E', 'A', 'D', '_', 'S', 'T', 'A', 'T', 'U', 'S'] then some .readStatus
  else if m = ['R', 'E', 'A', 'D', '_', 'V', 'A', 'L', 'I', 'D'] then some .readValid
  else none

/-- The mnemonics that take one operand (R73, R87). -/
def operandCommand (m : List Char) (v : Int) : Option AsmCommand :=
  if m = ['S', 'A', 'M', 'P', 'L', 'E'] then some (.sample v)
  else if m = ['R', 'E', 'A', 'D', '_', 'P', 'A', 'Y', 'L', 'O', 'A', 'D'] then some (.readPayload v)
  else if m = ['R', 'E', 'A', 'D', '_', 'R', 'E', 'C', 'O', 'R', 'D'] then some (.readRecord v)
  else if m = ['R', 'E', 'A', 'D', '_', 'D', 'E', 'B', 'U', 'G'] then some (.readDebug v)
  else if m = ['R', 'E', 'A', 'D', '_', 'W', 'I', 'N', 'D', 'O', 'W'] then some (.readWindow v)
  else if m = ['R', 'E', 'A', 'D', '_', 'C', 'O', 'N', 'F', 'I', 'G'] then some (.readConfig v)
  else none

/-- The pseudo-instruction `HOLD v, n` (R88). -/
def holdCommand (m : List Char) (v n : Int) : Option AsmCommand :=
  if m = ['H', 'O', 'L', 'D'] then some (.hold v n) else none

/-- What a line of assembly text says. -/
inductive AsmLine where
  /-- No command: blank, or a comment alone. -/
  | blank
  /-- One command. -/
  | command (c : AsmCommand)
  /-- The assembler refuses the text. -/
  | refused
deriving DecidableEq, Repr

/-- A command, or a refusal where there is none. -/
def lineOf : Option AsmCommand → AsmLine
  | some c => .command c
  | none => .refused

/-- Read one line: a mnemonic, then at most one operand, or `HOLD v, n` (R87, R88). -/
def parseLine (line : List Char) : AsmLine :=
  match tokens (stripComment line) [] with
  | [] => .blank
  | [m] => lineOf (plainCommand m)
  | [m, a] => lineOf ((operandValue a).bind (operandCommand m))
  | [m, a, [','], b] =>
    lineOf ((operandValue a).bind fun v => (operandValue b).bind fun n => holdCommand m v n)
  | _ => .refused

end Sys2Proof.Machine
end

