-- ==== Sys2Proof/Machine/Session.lean ====
section
/-! DEFINITION. Sequences: commands one after another (R59, R61), bits into the framer, bytes into the
synchronizer, and the bits of a frame on the wire (R147). Statements about more than one step are
written with these. -/

namespace Sys2Proof.Machine

/-- The bits of byte `y` on the wire, in time order: start bit 0, data bits 0 to 7, stop bits 1 1
(R147, R55). -/
def wireFrame (y : Byte) : List Bool :=
  [false, y[0], y[1], y[2], y[3], y[4], y[5], y[6], y[7], true, true]

/-- The pulses of a bit stream as `SAMPLE` commands: a 1 is `rect` equal samples, a 0 is `2 * rect`, the two
samples `a` and `b` take turns, and one closing sample ends the last pulse (95_test_vectors.md section
0, U15). -/
def pulseTrain (rect : Nat) : BitVec 28 → BitVec 28 → List Bool → List Instr
  | a, _, [] => [.sample a]
  | a, b, bit :: bits => List.replicate (if bit then rect else 2 * rect) (.sample a) ++ pulseTrain rect b a bits

/-- Push bits one after another: the framer after them and what each push emitted. -/
def pushBits : List Bool → FramerState → FramerState × List (Option Byte)
  | [], f => (f, [])
  | b :: bs, f =>
    ((pushBits bs (framePush b f).1).1, (framePush b f).2 :: (pushBits bs (framePush b f).1).2)

/-- Submit framed bytes one after another. -/
def submitBytes (p : Params) : List Byte → SyncState → AsmState → Except Fault (SyncState × AsmState)
  | [], sy, a => .ok (sy, a)
  | y :: ys, sy, a =>
    match syncSubmit p y sy a with
    | .error f => .error f
    | .ok r => submitBytes p ys r.sync r.asm

/-- Accept commands one after another: each sees every effect of those before it (R59, R256). -/
def runCommands : List Instr → State → Host.Outcome State Fault Refusal
  | [], s => .next s
  | i :: is, s =>
    match exec i s with
    | .next t => runCommands is t
    | .fault f => .fault f
    | .refused r => .refused r

end Sys2Proof.Machine
end

