-- ==== Sys2Proof/Safety.lean ====
section
/-! DEFINITION. The invariants of R35, and what a step that does not stop is. -/

namespace Sys2Proof.Machine

/-- The invariants of R35 over one state: items 1, 2 and 4 to 9, with the element ranges of R21 to R32
(`held`, and the types of `fcnt`, `cur_sign`, `phase` and `wr_ptr`) and the record's canonical form. Item
3 is about the commands since reset, not about one state. -/
structure StateInv (s : State) : Prop where
  /-- The configuration is one R6 allows. -/
  legal : s.cfg.legal = true
  /-- Every element holds a value it can hold (R21 to R23, R30; items 1, 5, 6, 7 as to ranges). -/
  inRange : held s = true
  /-- The record is in canonical form. -/
  recordWf : Memory.wf s.asm.record = true
  /-- Item 1: `sum` is the sum of the window. -/
  sumOfWindow : s.edge.sum = s.edge.win.sum
  /-- Item 2: `cur_sign` is the sign of `sum`. -/
  signOfSum : s.edge.curSign = signOf s.edge.sum
  /-- Item 5: in SEEK_LEADER nothing is stored. -/
  leaderEmpty : s.sync.phase = .seekLeader → s.asm.wrPtr.val = 0
  /-- Item 6: in IN_STREAM there is room. -/
  streamRoom : s.sync.phase = .inStream → s.asm.wrPtr.val < 1987
  /-- Item 7: in SEEK_END the record is full. -/
  endFull : s.sync.phase = .seekEnd → s.asm.wrPtr.val = 1987
  /-- Item 8: unfilled offsets read 0x00. -/
  unfilledZero : ∀ o, s.asm.wrPtr.val ≤ o → o < 1987 → Memory.read s.asm.record o = 0

/-- The place of a phase in the order SEEK_LEADER, IN_STREAM, SEEK_END (R168). -/
def phaseRank (ph : Phase) : Nat := (phaseCode ph).toNat

/-- An outcome is a next state: the machine neither faults nor refuses. -/
def goesOn (o : Host.Outcome State Fault Refusal) : Prop := ∃ t, o = .next t

end Sys2Proof.Machine
end

