-- ==== Sys2Proof/Certificates/Slice0/Obligations.lean ====
section
/-! DEFINITION. The statements for the provers. Each docstring names the rules it formalises. In the
per-command statements the next state is written out in full, so each is also the command's frame:
whatever is not named in it is unchanged. -/

open Sys2Proof Sys2Proof.Machine

/-! ### Encoding -/

/-- R71 to R73: the decoder reads back every command the encoder writes, every operand at every value
its field admits. -/
def Obligations.DecodeInvertsEncode : Prop :=
  ∀ i : Instr, i.wellFormed = true → decode (encode i) = i

/-- R73, R74: every 32-bit word is the row its opcode selects, and its operands fit their fields. -/
def Obligations.DecodeFollowsOpcodeMap : Prop :=
  ∀ w : Word, w &&& rowMask = rowMatch (decode w) ∧ opcode (decode w) = opOf w ∧
    (decode w).wellFormed = true

/-- R72, U7: the ignored argument bits decide nothing, neither which command a word is nor what a
`SAMPLE` does. -/
def Obligations.IgnoredBitsHaveNoEffect : Prop :=
  (∀ w w' : Word, opOf w = opOf w' →
    (opOf w ∈ [0x0#4, 0x2#4, 0x3#4, 0x4#4, 0xA#4, 0xB#4, 0xC#4, 0xD#4, 0xE#4, 0xF#4] →
      decode w = decode w') ∧
    (opOf w ∈ [0x5#4, 0x6#4] → w.extractLsb' 0 11 = w'.extractLsb' 0 11 → decode w = decode w') ∧
    (opOf w ∈ [0x7#4, 0x9#4] → w.extractLsb' 0 4 = w'.extractLsb' 0 4 → decode w = decode w') ∧
    (opOf w = 0x8#4 → w.extractLsb' 0 8 = w'.extractLsb' 0 8 → decode w = decode w')) ∧
  (∀ (a a' : BitVec 28) (s : State), a.setWidth s.cfg.sampleW = a'.setWidth s.cfg.sampleW →
    exec (.sample a) s = exec (.sample a') s)

/-- R87 and 95_test_vectors.md HT-1: words written out from the encoding are the commands they stand
for. -/
def Obligations.WrittenWordsDecode : Prop :=
  decode 0x0FFFFFFF#32 = .nop ∧ decode 0x10000064#32 = .sample 100#28 ∧
  decode 0x20000000#32 = .reset ∧ decode 0x3FFFFFFF#32 = .readStatus ∧
  decode 0x5000077F#32 = .readPayload 1919 ∧ decode 0x600007C3#32 = .readRecord 1987 ∧
  decode 0x70000009#32 = .readDebug 9 ∧ decode 0x800000FF#32 = .readWindow 255 ∧
  decode 0x90000006#32 = .readConfig 6 ∧ decode 0xB1234567#32 = .reservedB

/-- R87: a sample that fits assembles to `0x10000000 | trunc_SAMPLE_W(v)`, one word, which the block
reads back as the sample `v`; one that does not fit is refused. -/
def Obligations.AssembledSampleReadsBack : Prop :=
  ∀ (p : Params) (v : Int), p.legal = true →
    (fitsSigned p.sampleW v = true →
      ∃ a : BitVec 28, assemble p (.sample v) = some [0x10000000#32 ||| a.setWidth 32] ∧
        a.toNat = (BitVec.ofInt p.sampleW v).toNat ∧
        decode (0x10000000#32 ||| a.setWidth 32) = .sample a ∧ sampleOperand p a = v) ∧
    (fitsSigned p.sampleW v = false → assemble p (.sample v) = none)

/-- R88: `HOLD v, n` with `n >= 1` is `n` copies of `SAMPLE v`. -/
def Obligations.HoldIsCopiesOfSample : Prop :=
  ∀ (p : Params) (v n : Int) (w : Word), 1 ≤ n → assemble p (.sample v) = some [w] →
    assemble p (.hold v n) = some (List.replicate n.toNat w)

/-! ### The port and the step -/

/-- R200, R70: a command word accepted at the port is decoded and executed whole; the step adds only
that the port moves on to the next edge's inputs. -/
def Obligations.StepRunsDecodedCommand : Prop :=
  ∀ (s : State) (w : Word) (rest : List PinCycle),
    s.cfg.legal = true → held s = true → s.clearLeft = 0 →
    s.pins = { rst := false, cmdValid := true, cmd := w } :: rest →
    step s = exec (decode w) { s with pins := rest }

/-- R260, R250, R251: with `rst` at an edge the block resets from any state, whatever command is
offered, and gives no response. That the count behind `cmd_ready` starts again at CLEAR_CYCLES is the
model's choice (assumption 3). -/
def Obligations.RstWinsOverCommand : Prop :=
  ∀ (s : State) (c : PinCycle) (rest : List PinCycle),
    s.cfg.legal = true → s.pins = c :: rest → c.rst = true →
    step s = .next { State.resetWith s.cfg with pins := rest } ∧
      (State.resetWith s.cfg).respValid = false

/-- R200, R70: in a cycle where no command is accepted, because none is offered or `cmd_ready` is 0,
`resp_valid` becomes 0 and nothing of the spec's state changes. The count behind `cmd_ready` (the
model's own, assumption 3) and the port inputs move on. -/
def Obligations.IdleCycleOnlyLowersRespValid : Prop :=
  ∀ s : State, s.cfg.legal = true →
    (s.pins = [] ∨
      ∃ c rest, s.pins = c :: rest ∧ c.rst = false ∧ (c.cmdValid = false ∨ s.clearLeft ≠ 0)) →
    step s = .next { s with respValid := false, clearLeft := s.clearLeft - 1, pins := s.pins.tail }

/-- R6, R7 and 93_implementation_defined.md U9: a configuration outside the ranges of R6 has no semantics,
and from a state that holds a value never held no command is defined. Which stops these are, a refusal
and a fault at the step, is the model's choice (assumptions 6 and 7). -/
def Obligations.StatesTheSpecExcludesStop : Prop :=
  (∀ s : State,
    ¬ (1 ≤ s.cfg.rect ∧ s.cfg.rect ≤ 43689 ∧ 1 ≤ s.cfg.w ∧ s.cfg.w ≤ 256 ∧
       1 ≤ s.cfg.leadLen ∧ s.cfg.leadLen ≤ 65535 ∧ 1 ≤ s.cfg.endLen ∧ s.cfg.endLen ≤ 65535 ∧
       2 ≤ s.cfg.sampleW ∧ s.cfg.sampleW ≤ 28) →
    step s = .refused .illegalConfig) ∧
  (∀ (s : State) (w : Word) (rest : List PinCycle),
    s.cfg.legal = true → held s = false → s.clearLeft = 0 →
    s.pins = { rst := false, cmdValid := true, cmd := w } :: rest →
    step s = .fault .neverHeld)

/-- R252, R6: no command and no edge changes the parameters. -/
def Obligations.ParametersNeverChange : Prop :=
  (∀ s t : State, step s = .next t → t.cfg = s.cfg) ∧
  (∀ (i : Instr) (s t : State), exec i s = .next t → t.cfg = s.cfg)

/-! ### Reset and the invariants -/

/-- R37: the reset value of every state element, for every configuration. -/
def Obligations.ResetHoldsTheTable : Prop :=
  ∀ p : Params, p.legal = true →
    let s := State.resetWith p
    s.edge.win.length = p.w ∧ (∀ k, k < p.w → s.edge.win[k]? = some 0) ∧ s.edge.sum = 0 ∧
    s.edge.widx = 0 ∧ s.edge.curSign = .zero ∧ s.edge.runCnt = 0 ∧
    s.framer.freg = 0 ∧ s.framer.fcnt = 0 ∧
    s.sync.phase = .seekLeader ∧ s.sync.rem.toNat = p.leadLen ∧
    (∀ o, memRead s.asm.record o = if o < 1987 then some 0 else none) ∧ s.asm.wrPtr = 0 ∧
    s.resp = 0 ∧ s.respValid = false

/-- R35: the invariants hold right after reset, for every configuration the spec describes, and so for
`State.reset`. -/
def Obligations.ResetSatisfiesInvariants : Prop :=
  (∀ p : Params, p.legal = true → StateInv (State.resetWith p)) ∧ StateInv State.reset

/-- R35: every edge keeps the invariants, from every state that has them. -/
def Obligations.StepKeepsInvariants : Prop :=
  ∀ s t : State, StateInv s → step s = .next t → StateInv t

/-- R230, R234: where the invariants hold no edge stops the machine. -/
def Obligations.StepNeverStops : Prop :=
  ∀ s : State, StateInv s → goesOn (step s)

/-- R58, R200: where the invariants hold every command is accepted, completes, keeps the invariants and
responds. -/
def Obligations.EveryCommandResponds : Prop :=
  ∀ (i : Instr) (s : State), StateInv s →
    ∃ t, exec i s = .next t ∧ StateInv t ∧ t.respValid = true ∧ t.pins = s.pins ∧ t.cfg = s.cfg

/-- R35 item 3, R25: in every session, `run_cnt` is 0 exactly when no `SAMPLE` has been accepted since
reset. -/
def Obligations.RunCountZeroMeansNoSample : Prop :=
  ∀ (p : Params) (is : List Instr) (t : State), p.legal = true →
    runCommands is (State.resetWith p) = .next t →
    (t.edge.runCnt = 0 ↔ ∀ a : BitVec 28, Instr.sample a ∉ is.reverse.takeWhile (fun i => i != .reset))

/-! ### Commands other than SAMPLE -/

/-- R201: every word of row 0x0 is `NOP`, whatever its argument; it responds 0 and does nothing else. -/
def Obligations.NopOnlyResponds : Prop :=
  (∀ w : Word, w &&& 0xF0000000#32 = 0x00000000#32 → decode w = .nop) ∧
  ∀ s : State, exec .nop s = .next { s with resp := 0x00000000#32, respValid := true }

/-- R204: every word of row 0x2 is `RESET`, whatever its argument; it does what `rst` does to every
element, keeps the parameters, and responds 0. That the count behind `cmd_ready` starts again at
CLEAR_CYCLES is the model's choice (assumption 3). -/
def Obligations.ResetStartsNewSession : Prop :=
  (∀ w : Word, w &&& 0xF0000000#32 = 0x20000000#32 → decode w = .reset) ∧
  (∀ s : State, exec .reset s =
    .next { State.resetWith s.cfg with pins := s.pins, resp := 0x00000000#32, respValid := true }) ∧
  ∀ (s t : State) (c : PinCycle) (rest : List PinCycle), s.pins = c :: rest → c.rst = true →
    step s = .next t → exec .reset s = .next { t with pins := s.pins, respValid := true }

/-- R205, R77: every word of row 0x3 is `READ_STATUS`; it responds the status word, field by field, and
writes nothing else. -/
def Obligations.StatusReadback : Prop :=
  (∀ w : Word, w &&& 0xF0000000#32 = 0x30000000#32 → decode w = .readStatus) ∧
  ∀ s : State, ∃ v : Word, exec .readStatus s = .next { s with resp := v, respValid := true } ∧
    v.extractLsb' 0 2 = phaseCode s.sync.phase ∧
    v[2] = decide (s.sync.phase = .seekEnd ∧ s.sync.rem = 0) ∧
    v[3] = decide (s.asm.wrPtr.val = 1987) ∧
    v[4] = validFn s.asm.record ∧
    v[5] = decide (s.framer.fcnt.val = 11) ∧
    v.extractLsb' 6 2 = signCode s.edge.curSign ∧
    (v.extractLsb' 8 11).toNat = s.asm.wrPtr.val ∧
    v.extractLsb' 19 13 = 0

/-- R206, R78: every word of row 0x4 is `READ_VALID`; it responds `valid_fn(rec)` in bit 0 and writes
nothing else. -/
def Obligations.ValidReadback : Prop :=
  (∀ w : Word, w &&& 0xF0000000#32 = 0x40000000#32 → decode w = .readValid) ∧
  ∀ s : State, exec .readValid s =
    .next { s with resp := if validFn s.asm.record then 1 else 0, respValid := true }

/-- R207, R79: every word of row 0x5 is `READ_PAYLOAD i` with `i` its bits 10:0; it responds
`(valid << 8) | rec[pay_off(i)]`, whatever `valid` is, or `E_RANGE`, and writes nothing else. -/
def Obligations.PayloadReadback : Prop :=
  (∀ w : Word, w &&& 0xF0000000#32 = 0x50000000#32 → decode w = .readPayload (w.extractLsb' 0 11).toNat) ∧
  ∀ (s : State) (i : Nat),
    (i < 1920 → exec (.readPayload i) s =
      .next { s with
        resp := BitVec.ofNat 32 (256 * (if validFn s.asm.record then 1 else 0) +
          (Memory.read s.asm.record (2 + 31 * (i / 30) + i % 30)).toNat)
        respValid := true }) ∧
    (1920 ≤ i → exec (.readPayload i) s = .next { s with resp := 0x80000002#32, respValid := true })

/-- R184: `extract()` is the 1920 bytes `rec[pay_off(0)]` to `rec[pay_off(1919)]` in order, and
`READ_PAYLOAD i` returns its byte `i` in bits 7:0 with `valid` in bit 8, valid or not. -/
def Obligations.PayloadReadsExtract : Prop :=
  ∀ (s : State) (i : Nat), i < 1920 →
    (extract s.asm.record).length = 1920 ∧
    (extract s.asm.record)[i]? = some (Memory.read s.asm.record (payOff i)) ∧
    ∃ t, exec (.readPayload i) s = .next t ∧
      (extract s.asm.record)[i]? = some (t.resp.extractLsb' 0 8) ∧ t.resp[8] = validFn s.asm.record

/-- R208, R80: every word of row 0x6 is `READ_RECORD o` with `o` its bits 10:0; it responds
`((o < wr_ptr) << 8) | rec[o]`, or `E_RANGE`, and writes nothing else. -/
def Obligations.RecordReadback : Prop :=
  (∀ w : Word, w &&& 0xF0000000#32 = 0x60000000#32 → decode w = .readRecord (w.extractLsb' 0 11).toNat) ∧
  ∀ (s : State) (o : Nat),
    (o < 1987 → exec (.readRecord o) s =
      .next { s with
        resp := BitVec.ofNat 32 (256 * (if o < s.asm.wrPtr.val then 1 else 0) +
          (Memory.read s.asm.record o).toNat)
        respValid := true }) ∧
    (1987 ≤ o → exec (.readRecord o) s = .next { s with resp := 0x80000002#32, respValid := true })

/-- R209, R81: every word of row 0x7 is `READ_DEBUG sel` with `sel` its bits 3:0; it responds the selected
register, or `E_SELECT`, and writes nothing else. Selectors 5 and 6 are the two halves of `sum`
sign-extended to 64 bits, the upper one all 0 or all 1 when `SUM_W <= 32`. -/
def Obligations.DebugReadback : Prop :=
  (∀ w : Word, w &&& 0xF0000000#32 = 0x70000000#32 → decode w = .readDebug (w.extractLsb' 0 4).toNat) ∧
  ∀ s : State,
    exec (.readDebug 0) s = .next { s with resp := s.sync.rem.setWidth 32, respValid := true } ∧
    exec (.readDebug 1) s = .next { s with resp := s.edge.runCnt.setWidth 32, respValid := true } ∧
    exec (.readDebug 2) s = .next { s with resp := BitVec.ofNat 32 s.framer.fcnt.val, respValid := true } ∧
    exec (.readDebug 3) s = .next { s with resp := s.framer.freg.setWidth 32, respValid := true } ∧
    exec (.readDebug 4) s = .next { s with resp := BitVec.ofNat 32 s.edge.widx, respValid := true } ∧
    (∃ lo hi : Word, (hi.setWidth 64 <<< 32) ||| lo.setWidth 64 = BitVec.ofInt 64 s.edge.sum ∧
      (fitsSigned (sumW s.cfg) s.edge.sum = true → sumW s.cfg ≤ 32 → hi = 0 ∨ hi = 0xFFFFFFFF#32) ∧
      exec (.readDebug 5) s = .next { s with resp := lo, respValid := true } ∧
      exec (.readDebug 6) s = .next { s with resp := hi, respValid := true }) ∧
    exec (.readDebug 7) s = .next { s with
      resp := match s.edge.curSign with
        | .neg => 0xFFFFFFFF#32
        | .zero => 0x00000000#32
        | .pos => 0x00000001#32
      respValid := true } ∧
    exec (.readDebug 8) s = .next { s with resp := (phaseCode s.sync.phase).setWidth 32, respValid := true } ∧
    ∀ sel, 9 ≤ sel → exec (.readDebug sel) s = .next { s with resp := 0x80000003#32, respValid := true }

/-- R210, R82: every word of row 0x8 is `READ_WINDOW k` with `k` its bits 7:0; it responds entry `k`
sign-extended to 32 bits, or `E_RANGE`, and writes nothing else. -/
def Obligations.WindowReadback : Prop :=
  (∀ w : Word, w &&& 0xF0000000#32 = 0x80000000#32 → decode w = .readWindow (w.extractLsb' 0 8).toNat) ∧
  ∀ (s : State) (k : Nat), s.edge.win.length = s.cfg.w →
    (∀ x : Int, s.edge.win[k]? = some x →
      exec (.readWindow k) s = .next { s with resp := BitVec.ofInt 32 x, respValid := true }) ∧
    (k < s.cfg.w → ∃ x : Int, s.edge.win[k]? = some x) ∧
    (s.cfg.w ≤ k → exec (.readWindow k) s = .next { s with resp := 0x80000002#32, respValid := true })

/-- R83, R211: every word of row 0x9 is `READ_CONFIG sel` with `sel` its bits 3:0; it responds a parameter
or a threshold, or `E_SELECT`, and writes nothing else. -/
def Obligations.ConfigReadback : Prop :=
  (∀ w : Word, w &&& 0xF0000000#32 = 0x90000000#32 → decode w = .readConfig (w.extractLsb' 0 4).toNat) ∧
  ∀ s : State,
    exec (.readConfig 0) s = .next { s with resp := BitVec.ofNat 32 s.cfg.rect, respValid := true } ∧
    exec (.readConfig 1) s = .next { s with resp := BitVec.ofNat 32 s.cfg.w, respValid := true } ∧
    exec (.readConfig 2) s = .next { s with resp := BitVec.ofNat 32 s.cfg.leadLen, respValid := true } ∧
    exec (.readConfig 3) s = .next { s with resp := BitVec.ofNat 32 s.cfg.endLen, respValid := true } ∧
    exec (.readConfig 4) s = .next { s with resp := BitVec.ofNat 32 s.cfg.sampleW, respValid := true } ∧
    exec (.readConfig 5) s = .next { s with resp := BitVec.ofNat 32 (s.cfg.rect / 2), respValid := true } ∧
    exec (.readConfig 6) s =
      .next { s with resp := BitVec.ofNat 32 ((s.cfg.rect * 3) / 2), respValid := true } ∧
    ∀ sel, 7 ≤ sel → exec (.readConfig sel) s = .next { s with resp := 0x80000003#32, respValid := true }

/-- R212, R74: a word with a reserved opcode returns `E_OPCODE` and writes nothing else. The six
commands are RESERVED_A to RESERVED_F. -/
def Obligations.ReservedOpcodesReturnError : Prop :=
  (∀ (w : Word) (s : State), 10 ≤ (opOf w).toNat →
    exec (decode w) s = .next { s with resp := 0x80000001#32, respValid := true }) ∧
  (∀ (i : Instr) (s : State),
    i ∈ [Instr.reservedA, .reservedB, .reservedC, .reservedD, .reservedE, .reservedF] →
    exec i s = .next { s with resp := 0x80000001#32, respValid := true })

/-- R213: every command but `SAMPLE` and `RESET`, errors included, leaves all state but `resp` and
`resp_valid` unchanged. -/
def Obligations.OnlySampleAndResetWriteState : Prop :=
  ∀ (i : Instr) (s t : State), (∀ a, i ≠ .sample a) → i ≠ .reset → exec i s = .next t →
    ∃ v : Word, t = { s with resp := v, respValid := true }

/-- R185: a read changes nothing but the response, and the same read again gives the same response and
the same state. -/
def Obligations.ReadsAreIdempotent : Prop :=
  ∀ (i : Instr) (s t : State), (∀ a, i ≠ .sample a) → i ≠ .reset → exec i s = .next t →
    t = { s with resp := t.resp, respValid := true } ∧ exec i t = .next t

/-- R231, R232: which commands return an error, and which of the three words. For every command but
READ_WINDOW and READ_DEBUG bit 31 of the response is the error flag of R75. Those two return full 32-bit
values (R81, R82, R210), so there bit 31 is also set by a value whose own bit 31 is set (a negative entry,
bit 31 of `sum`, a negative `sum`, a negative `cur_sign`) and by nothing else: the model's reading of the
spec where R75 and those rules differ (assumption 10). The error word of READ_WINDOW is still no value
it returns. -/
def Obligations.ErrorResponsesAreExactlyTheTable : Prop :=
  (∀ (i : Instr) (s t : State), s.cfg.legal = true → exec i s = .next t →
    (∀ k, i ≠ .readWindow k) → (∀ sel, i ≠ .readDebug sel) →
    (t.resp[31] = true ↔
      i ∈ [Instr.reservedA, .reservedB, .reservedC, .reservedD, .reservedE, .reservedF] ∨
      (∃ n, i = .readPayload n ∧ 1920 ≤ n) ∨ (∃ n, i = .readRecord n ∧ 1987 ≤ n) ∨
      (∃ n, i = .readConfig n ∧ 7 ≤ n)) ∧
    (t.resp[31] = true → t.resp ∈ [0x80000001#32, 0x80000002#32, 0x80000003#32])) ∧
  (∀ (k : Nat) (s t : State), s.cfg.legal = true → held s = true → exec (.readWindow k) s = .next t →
    (t.resp = 0x80000002#32 ↔ s.cfg.w ≤ k) ∧
    (t.resp[31] = true ↔ s.cfg.w ≤ k ∨ ∃ x : Int, s.edge.win[k]? = some x ∧ x < 0)) ∧
  (∀ (sel : Nat) (s t : State), s.cfg.legal = true → held s = true → exec (.readDebug sel) s = .next t →
    (9 ≤ sel → t.resp = 0x80000003#32) ∧
    (t.resp[31] = true ↔ 9 ≤ sel ∨ (sel = 5 ∧ (BitVec.ofInt 32 s.edge.sum)[31] = true) ∨
      (sel = 6 ∧ s.edge.sum < 0) ∨ (sel = 7 ∧ s.edge.curSign = .neg)))

/-! ### SAMPLE: the whole command -/

/-- R202, R76, R203: a sample without a transition changes the Edge Detector alone; the response shows
only the phase. -/
def Obligations.SampleWithoutTransition : Prop :=
  ∀ (s : State) (arg : BitVec 28) (e : EdgeState),
    edgeObserve s.cfg (sampleOperand s.cfg arg) s.edge = some (e, none) →
    exec (.sample arg) s = .next { s with
      edge := e
      resp := (phaseCode s.sync.phase).setWidth 32 <<< 24
      respValid := true }

/-- R202, R122, R76, R203: a transition classed `IGNORE` changes the Edge Detector alone; the response
shows the transition, class code 01, the phase and the duration. -/
def Obligations.SampleIgnoredTransition : Prop :=
  ∀ (s : State) (arg : BitVec 28) (e : EdgeState) (d : BitVec 16),
    edgeObserve s.cfg (sampleOperand s.cfg arg) s.edge = some (e, some d) →
    classify s.cfg d = .ignore →
    exec (.sample arg) s = .next { s with
      edge := e
      resp := 0x50000000#32 ||| (phaseCode s.sync.phase).setWidth 32 <<< 24 ||| d.setWidth 32
      respValid := true }

/-- R202, R122, R85, R76, R203: a transition that gives a bit but no byte changes the Edge Detector and
the Framer alone; `ZERO` passes 0 and `ONE` passes 1. -/
def Obligations.SampleBitWithoutByte : Prop :=
  ∀ (s : State) (arg : BitVec 28) (e : EdgeState) (d : BitVec 16) (b : Bool) (f : FramerState),
    edgeObserve s.cfg (sampleOperand s.cfg arg) s.edge = some (e, some d) →
    classify s.cfg d = (if b then .one else .zero) →
    framePush b s.framer = (f, none) →
    exec (.sample arg) s = .next { s with
      edge := e
      framer := f
      resp := (if b then 0x70000000#32 else 0x60000000#32) |||
        (phaseCode s.sync.phase).setWidth 32 <<< 24 ||| d.setWidth 32
      respValid := true }

/-- R202, R76, R203: a transition whose bit completes a frame also passes the byte to the synchronizer;
the response shows the byte, whether it was stored, and the phase after the command. -/
def Obligations.SampleFramedByte : Prop :=
  ∀ (s : State) (arg : BitVec 28) (e : EdgeState) (d : BitVec 16) (b : Bool) (f : FramerState)
    (y : Byte) (r : SyncResult),
    edgeObserve s.cfg (sampleOperand s.cfg arg) s.edge = some (e, some d) →
    classify s.cfg d = (if b then .one else .zero) →
    framePush b s.framer = (f, some y) →
    syncSubmit s.cfg y s.sync s.asm = .ok r →
    exec (.sample arg) s = .next { s with
      edge := e
      framer := f
      sync := r.sync
      asm := r.asm
      resp := (if b then 0x78000000#32 else 0x68000000#32) |||
        (if r.stored then 0x04000000#32 else 0#32) |||
        (phaseCode r.sync.phase).setWidth 32 <<< 24 ||| y.setWidth 32 <<< 16 ||| d.setWidth 32
      respValid := true }

/-- R53, R181, R76: a `SAMPLE` stores at most one byte, the framed byte of its response, at the offset
`wr_ptr`, only in IN_STREAM; every other offset reads as before, and without a store the assembler is
unchanged. -/
def Obligations.SampleStoresAtWritePointerOnly : Prop :=
  ∀ (s t : State) (arg : BitVec 28), StateInv s → exec (.sample arg) s = .next t →
    (t.resp[26] = true →
      s.sync.phase = .inStream ∧ t.asm.wrPtr.val = s.asm.wrPtr.val + 1 ∧
      Memory.read t.asm.record s.asm.wrPtr.val = t.resp.extractLsb' 16 8 ∧
      ∀ o, o ≠ s.asm.wrPtr.val → Memory.read t.asm.record o = Memory.read s.asm.record o) ∧
    (t.resp[26] = false → t.asm = s.asm)

/-- R53, R168, R255: without a reset at the edge, a filled byte never changes again, `wr_ptr` never goes
back, and the phase moves only forward, by at most one. -/
def Obligations.SessionOnlyMovesForward : Prop :=
  ∀ s t : State, StateInv s → step s = .next t → portEvent s ≠ .reset →
    (∀ w, portEvent s = .command w → decode w ≠ .reset) →
    (∀ o, o < s.asm.wrPtr.val → Memory.read t.asm.record o = Memory.read s.asm.record o) ∧
    s.asm.wrPtr.val ≤ t.asm.wrPtr.val ∧
    phaseRank s.sync.phase ≤ phaseRank t.sync.phase ∧
    phaseRank t.sync.phase ≤ phaseRank s.sync.phase + 1

/-! ### Stage 1, Edge Detector -/

/-- R102 to R106: the sample replaces the oldest one; the sum and the index move; a transition is
reported exactly when the new sign differs from the recorded one, with the ended run's count, and the
run count becomes 1; otherwise it counts up and saturates at 65535. -/
def Obligations.EdgeDetectorRule : Prop :=
  ∀ (p : Params) (x old : Int) (e : EdgeState), e.win[e.widx]? = some old →
    ∃ (e' : EdgeState) (ev : Option (BitVec 16)), edgeObserve p x e = some (e', ev) ∧
      e'.win = e.win.set e.widx x ∧
      e'.widx = (e.widx + 1) % p.w ∧
      e'.sum = e.sum - old + x ∧
      (0 < e'.sum → e'.curSign = .pos) ∧ (e'.sum = 0 → e'.curSign = .zero) ∧
      (e'.sum < 0 → e'.curSign = .neg) ∧
      (e'.curSign ≠ e.curSign → ev = some e.runCnt ∧ e'.runCnt.toNat = 1) ∧
      (e'.curSign = e.curSign → ev = none ∧ e'.runCnt.toNat = min (e.runCnt.toNat + 1) 65535)

/-- R100: any sum of at most `W` samples, so every partial result of R102, fits `SUM_W` bits. -/
def Obligations.SumAlwaysFits : Prop :=
  ∀ (p : Params) (l : List Int), p.legal = true → l.length ≤ p.w →
    (∀ x ∈ l, fitsSigned p.sampleW x = true) → fitsSigned (p.sampleW + clog2 p.w) l.sum = true

/-- R105: with `W == 1`, a pulse of `n` equal nonzero samples between opposite-sign neighbours reports
duration exactly `n`, at the first sample after it. -/
def Obligations.PulseReportsItsLength : Prop :=
  ∀ (s : State) (a b : BitVec 28) (n : Nat), StateInv s → s.cfg.w = 1 → 1 ≤ n → n ≤ 65535 →
    sampleOperand s.cfg a ≠ 0 →
    s.edge.curSign = signOf (-(sampleOperand s.cfg a)) →
    signOf (sampleOperand s.cfg b) = signOf (-(sampleOperand s.cfg a)) →
    ∃ t u, runCommands (List.replicate n (.sample a)) s = .next t ∧ exec (.sample b) t = .next u ∧
      u.resp[30] = true ∧ (u.resp.extractLsb' 0 16).toNat = n

/-- R107, R187: from reset, samples that are all 0 report no transition, so nothing is framed, nothing is
stored and `valid` stays false. -/
def Obligations.SilenceReportsNothing : Prop :=
  ∀ (p : Params) (as : List (BitVec 28)) (t : State), p.legal = true →
    (∀ a ∈ as, sampleOperand p a = 0) →
    runCommands (as.map Instr.sample) (State.resetWith p) = .next t →
    t.resp = 0 ∧ t.edge.curSign = .zero ∧ t.framer = (State.resetWith p).framer ∧
    t.sync = (State.resetWith p).sync ∧ t.asm = (State.resetWith p).asm ∧ validFlag t = false

/-! ### Stage 2, Pulse Classifier -/

/-- R121: the three bands. -/
def Obligations.ClassifierBands : Prop :=
  ∀ (p : Params) (d : BitVec 16),
    (classify p d = .zero ↔ (p.rect * 3) / 2 < d.toNat) ∧
    (classify p d = .one ↔ p.rect / 2 < d.toNat ∧ d.toNat ≤ (p.rect * 3) / 2) ∧
    (classify p d = .ignore ↔ d.toNat ≤ p.rect / 2)

/-- R124: the four ties fall as the comparisons of R121 give, and for `RECT == 1` the `ONE` band is the
single value 1. -/
def Obligations.ClassifierTies : Prop :=
  ∀ p : Params, p.legal = true →
    classify p (BitVec.ofNat 16 (tLo p)) = .ignore ∧
    classify p (BitVec.ofNat 16 (tLo p + 1)) = .one ∧
    classify p (BitVec.ofNat 16 (tHi p)) = .one ∧
    classify p (BitVec.ofNat 16 (tHi p + 1)) = .zero ∧
    (p.rect = 1 → tLo p + 1 = tHi p ∧ ∀ d : BitVec 16, classify p d = .one ↔ d.toNat = 1)

/-- R106, R7: a saturated run classifies as `ZERO`, in every configuration the spec describes. -/
def Obligations.SaturatedRunIsZero : Prop :=
  ∀ p : Params, p.legal = true → classify p 65535#16 = .zero

/-- R120: the floor thresholds give every integer duration the class that exact comparison with `R/2` and
`3R/2` gives. -/
def Obligations.FloorThresholdsAreExact : Prop :=
  ∀ (p : Params) (d : BitVec 16), 1 ≤ p.rect →
    (classify p d = .zero ↔ 3 * p.rect < 2 * d.toNat) ∧
    (classify p d = .one ↔ p.rect < 2 * d.toNat ∧ 2 * d.toNat ≤ 3 * p.rect) ∧
    (classify p d = .ignore ↔ 2 * d.toNat ≤ p.rect)

/-! ### Stage 3, Framer -/

/-- R141, R142 to R146: the new bit enters at bit 10 and every bit moves down one; the count goes up to
at most 11; a match is exactly 11 counted bits with stop bits 1 1 and start bit 0, emits `freg'[8:1]`
and clears the count. -/
def Obligations.FramerRule : Prop :=
  ∀ (b : Bool) (f : FramerState), ∃ (f' : FramerState) (out : Option Byte), framePush b f = (f', out) ∧
    f'.freg[10] = b ∧ (∀ k, k < 10 → f'.freg.getLsbD k = f.freg.getLsbD (k + 1)) ∧
    (10 ≤ f.fcnt.val ∧ f'.freg[10] = true ∧ f'.freg[9] = true ∧ f'.freg[0] = false →
      out = some (f'.freg.extractLsb' 1 8) ∧ f'.fcnt.val = 0) ∧
    (¬ (10 ≤ f.fcnt.val ∧ f'.freg[10] = true ∧ f'.freg[9] = true ∧ f'.freg[0] = false) →
      out = none ∧ f'.fcnt.val = min (f.fcnt.val + 1) 11)

/-- R142: a new bit enters at bit 10 and every bit moves one place toward bit 0; after 11 bits, bit `k` of
the register is the `k`-th bit pushed. -/
def Obligations.ElevenBitsFillTheRegister : Prop :=
  (∀ (b : Bool) (f : FramerState), (framePush b f).1.freg.getLsbD 10 = b ∧
    ∀ k, k < 10 → (framePush b f).1.freg.getLsbD k = f.freg.getLsbD (k + 1)) ∧
  ∀ (bits : List Bool) (f : FramerState) (k : Nat) (x : Bool), bits.length = 11 →
    bits[k]? = some x → (pushBits bits f).1.freg.getLsbD k = x

/-- R147, R146, R149: a framer whose count is 0 reads any stream of contiguous frames as exactly the bytes
sent, one a frame, and ends with count 0. -/
def Obligations.FramerRecoversTheByteStream : Prop :=
  ∀ (ys : List Byte) (f : FramerState), f.fcnt.val = 0 →
    (pushBits (ys.flatMap wireFrame) f).2.filterMap id = ys ∧
    (pushBits (ys.flatMap wireFrame) f).1.fcnt.val = 0

/-- R148: two contiguous frames of 0xFF put the framer on the true frame boundary from any state, and
every frame after them is read as the byte sent. -/
def Obligations.LeaderLocksTheFramer : Prop :=
  ∀ (f : FramerState) (ys : List Byte),
    (pushBits (wireFrame 0xFF#8 ++ wireFrame 0xFF#8) f).1 = { freg := 0x7FE#11, fcnt := 0 } ∧
    ((pushBits (wireFrame 0xFF#8 ++ wireFrame 0xFF#8 ++ ys.flatMap wireFrame) f).2.drop 22).filterMap id = ys

/-! ### Stage 4, Block Synchronizer -/

/-- R162: in SEEK_LEADER a 0xFF byte counts `rem` down and reaches IN_STREAM at 0; any other byte reloads
`LEAD_LEN`; no byte is stored. -/
def Obligations.LeaderByteRule : Prop :=
  ∀ (p : Params) (y : Byte) (sy : SyncState) (a : AsmState), p.legal = true →
    sy.phase = .seekLeader → 1 ≤ sy.rem.toNat →
    ∃ r, syncSubmit p y sy a = .ok r ∧ r.stored = false ∧ r.asm = a ∧
      (y = 0xFF → r.sync.rem.toNat = sy.rem.toNat - 1) ∧
      (y = 0xFF → sy.rem.toNat = 1 → r.sync.phase = .inStream) ∧
      (y = 0xFF → 1 < sy.rem.toNat → r.sync.phase = .seekLeader) ∧
      (y ≠ 0xFF → r.sync.phase = .seekLeader ∧ r.sync.rem.toNat = p.leadLen)

/-- R162: IN_STREAM is entered on exactly the `LEAD_LEN`-th consecutive 0xFF byte, which is not stored; a
single other byte before it delays entry by the full leader length again. -/
def Obligations.LeaderTakesItsFullLength : Prop :=
  ∀ (p : Params) (a : AsmState) (n : Nat) (y : Byte), p.legal = true →
    (n < p.leadLen →
      submitBytes p (List.replicate n 0xFF) { phase := .seekLeader, rem := leadRem p } a =
        .ok ({ phase := .seekLeader, rem := BitVec.ofNat 16 (p.leadLen - n) }, a)) ∧
    submitBytes p (List.replicate p.leadLen 0xFF) { phase := .seekLeader, rem := leadRem p } a =
      .ok ({ phase := .inStream, rem := 0 }, a) ∧
    (n < p.leadLen → y ≠ 0xFF →
      submitBytes p (List.replicate n 0xFF ++ [y]) { phase := .seekLeader, rem := leadRem p } a =
        .ok ({ phase := .seekLeader, rem := leadRem p }, a))

/-- R163, R164, R181: in IN_STREAM every byte, whatever its value, is stored at `wr_ptr`; every other
offset reads as before; the byte that fills the record moves the phase to SEEK_END and loads
`END_LEN`. -/
def Obligations.StreamByteRule : Prop :=
  ∀ (p : Params) (y : Byte) (sy : SyncState) (a : AsmState), p.legal = true →
    Memory.wf a.record = true → sy.phase = .inStream → a.wrPtr.val < 1987 →
    ∃ r, syncSubmit p y sy a = .ok r ∧ r.stored = true ∧ r.asm.wrPtr.val = a.wrPtr.val + 1 ∧
      Memory.read r.asm.record a.wrPtr.val = y ∧
      (∀ o, o ≠ a.wrPtr.val → Memory.read r.asm.record o = Memory.read a.record o) ∧
      (a.wrPtr.val + 1 = 1987 → r.sync.phase = .seekEnd ∧ r.sync.rem.toNat = p.endLen) ∧
      (a.wrPtr.val + 1 < 1987 → r.sync = sy)

/-- R54, R53, R168: from an empty record in IN_STREAM, the `k`-th byte forwarded is at offset `k`; at most
1987 are stored, and bytes after them change no byte of the record. -/
def Obligations.RecordHoldsBytesInArrivalOrder : Prop :=
  ∀ (p : Params) (ys zs : List Byte), p.legal = true → ys.length ≤ 1987 →
    (zs = [] ∨ ys.length = 1987) →
    ∃ sy a, submitBytes p (ys ++ zs) { phase := .inStream, rem := 0 } { record := [], wrPtr := 0 } =
        .ok (sy, a) ∧
      a.wrPtr.val = ys.length ∧
      (∀ k y, ys[k]? = some y → Memory.read a.record k = y) ∧
      (∀ o, ys.length ≤ o → Memory.read a.record o = 0) ∧
      (sy.phase = .seekEnd ↔ ys.length = 1987)

/-- R165: in SEEK_END while `rem > 0` a 0xFF byte counts `rem` down and any other byte reloads `END_LEN`;
no byte is stored. -/
def Obligations.EndByteRule : Prop :=
  ∀ (p : Params) (y : Byte) (sy : SyncState) (a : AsmState), p.legal = true →
    sy.phase = .seekEnd → 0 < sy.rem.toNat →
    ∃ r, syncSubmit p y sy a = .ok r ∧ r.stored = false ∧ r.asm = a ∧ r.sync.phase = .seekEnd ∧
      (y = 0xFF → r.sync.rem.toNat = sy.rem.toNat - 1) ∧
      (y ≠ 0xFF → r.sync.rem.toNat = p.endLen)

/-- R166: once the end block is satisfied every later byte is accepted and changes nothing. -/
def Obligations.EndBlockStaysSatisfied : Prop :=
  ∀ (p : Params) (ys : List Byte) (sy : SyncState) (a : AsmState),
    sy.phase = .seekEnd → sy.rem = 0 → submitBytes p ys sy a = .ok (sy, a)

/-! ### Stage 5, Payload Assembler -/

/-- SRC-4 of 95_test_vectors.md (R2, R254, R257): with `W == 1`, the leader, a record and the end block sent
as the pulses of U15 fill the record with exactly the bytes sent and satisfy the end block, in every
legal configuration and with every pair of samples of opposite signs. The pulse lengths are the
spec's choice of stimulus (95_test_vectors.md section 0). -/
def Obligations.TransmissionFillsTheRecord : Prop :=
  ∀ (p : Params) (a b : BitVec 28) (ys : List Byte), p.legal = true → p.w = 1 →
    0 < sampleOperand p a → sampleOperand p b < 0 → ys.length = 1987 →
    ∃ t, runCommands (pulseTrain p.rect a b
        ((List.replicate p.leadLen 0xFF ++ ys ++ List.replicate p.endLen 0xFF).flatMap wireFrame))
        (State.resetWith p) = .next t ∧
      t.sync.phase = .seekEnd ∧ t.sync.rem = 0 ∧ t.asm.wrPtr.val = 1987 ∧
      ∀ k y, ys[k]? = some y → Memory.read t.asm.record k = y

/-- R182, R183: `valid` is the marker, the terminator and the 64 checksums, and nothing else. -/
def Obligations.ValidIsTheRecordsChecks : Prop :=
  ∀ r : Memory, validFn r = true ↔
    Memory.read r 0 = 0x42 ∧ Memory.read r 1 = 0x03 ∧ Memory.read r 1986 = 0x00 ∧
    ∀ m, m < 64 → (Memory.read r (2 + 31 * m + 30)).toNat =
      ((List.range 30).map fun j => (Memory.read r (2 + 31 * m + j)).toNat).sum % 256

/-- R188: changing one data byte of a valid record makes it invalid, and restoring the byte makes it valid
again. -/
def Obligations.OneByteChangeFlipsValid : Prop :=
  ∀ (r : Memory) (m j : Nat) (v : Byte), Memory.wf r = true → validFn r = true → m < 64 → j < 30 →
    v ≠ Memory.read r (2 + 31 * m + j) →
    validFn (Memory.write r (2 + 31 * m + j) v) = false ∧
    validFn (Memory.write (Memory.write r (2 + 31 * m + j) v) (2 + 31 * m + j)
      (Memory.read r (2 + 31 * m + j))) = true

/-- R52, R51: `pay_off` maps the 1920 payload indices one to one onto the data bytes of the 64 messages,
in order. -/
def Obligations.PayloadIndexMap : Prop :=
  (∀ i, i < 1920 → ∃ m j, m < 64 ∧ j < 30 ∧ payOff i = 2 + 31 * m + j ∧ i = 30 * m + j) ∧
  (∀ i j, i < j → payOff i < payOff j) ∧
  payOff 0 = 2 ∧ payOff 29 = 31 ∧ payOff 30 = 33 ∧ payOff 1919 = 1984

/-- R34, R70: the output ports are functions of the state alone. -/
def Obligations.OutputsShowTheState : Prop :=
  ∀ s : State,
    (outputs s).stPhase = phaseCode s.sync.phase ∧
    ((outputs s).stEndDone = true ↔ s.sync.phase = .seekEnd ∧ s.sync.rem = 0) ∧
    ((outputs s).stRecordFull = true ↔ s.asm.wrPtr.val = 1987) ∧
    (outputs s).stValid = validFn s.asm.record ∧
    (outputs s).resp = s.resp ∧ (outputs s).respValid = s.respValid ∧
    ((outputs s).cmdReady = true ↔ s.clearLeft = 0)
end

