-- ==== Sys2Proof/Laws/Memory.lean ====
section
/-! SUPPORT. The laws of the Stream record: a write is read back, leaves every other offset alone and
keeps the canonical form, and records in that form with the same bytes are equal. -/

namespace Sys2Proof.Machine

@[simp] theorem Memory.read_nil (o : Nat) : Memory.read [] o = 0#8 := rfl

theorem Memory.wfFrom_cons {lo a : Nat} {b : Byte} {m : Memory} :
    Memory.wfFrom lo ((a, b) :: m) = true ↔
      lo ≤ a ∧ a < 1987 ∧ b ≠ 0#8 ∧ Memory.wfFrom (a + 1) m = true := by
  rw [Memory.wfFrom]
  simp only [Bool.and_eq_true, decide_eq_true_eq, and_assoc, ne_eq]
  rfl

theorem Memory.wfFrom_weaken {lo lo' : Nat} (h : lo' ≤ lo) :
    ∀ {m : Memory}, Memory.wfFrom lo m = true → Memory.wfFrom lo' m = true
  | [], _ => rfl
  | (a, b) :: m, hm => by
    rw [Memory.wfFrom_cons] at hm ⊢
    exact ⟨by omega, hm.2⟩

theorem Memory.read_below {lo o : Nat} (h : o < lo) :
    ∀ {m : Memory}, Memory.wfFrom lo m = true → Memory.read m o = 0#8
  | [], _ => rfl
  | (a, b) :: m, hm => by
    rw [Memory.wfFrom_cons] at hm
    have ih := Memory.read_below (lo := a + 1) (o := o) (by omega) hm.2.2.2
    simp [Memory.read, ih]
    omega

/-- A write leaves every other offset alone. -/
theorem Memory.read_write_of_ne {o o' : Nat} (h : o' ≠ o) (v : Byte) :
    ∀ m : Memory, Memory.read (Memory.write m o v) o' = Memory.read m o'
  | [] => by by_cases hv : v = 0#8 <;> simp [Memory.write, Memory.read, hv, h]
  | (a, b) :: m => by
    have ih := Memory.read_write_of_ne h v m
    unfold Memory.write
    split
    · split <;> simp [Memory.read, h]
    · split
      · next heq => subst heq; split <;> simp [Memory.read, h]
      · simp [Memory.read, ih]

theorem Memory.read_write_same_from {lo o : Nat} (v : Byte) :
    ∀ {m : Memory}, Memory.wfFrom lo m = true → Memory.read (Memory.write m o v) o = v
  | [], _ => by by_cases hv : v = 0#8 <;> simp [Memory.write, Memory.read, hv]
  | (a, b) :: m, hm => by
    rw [Memory.wfFrom_cons] at hm
    have ih := Memory.read_write_same_from (o := o) v hm.2.2.2
    unfold Memory.write
    split
    · next hlt =>
      split
      · next hv =>
        rw [hv, Memory.read_below (lo := a) hlt]
        exact Memory.wfFrom_cons.2 ⟨le_refl a, hm.2⟩
      · simp [Memory.read]
    · split
      · next heq =>
        split
        · next hv => rw [hv]; exact Memory.read_below (by omega) hm.2.2.2
        · simp [Memory.read]
      · next hne => simp [Memory.read, hne, ih]

/-- A write is read back. -/
theorem Memory.read_write_same {m : Memory} (hm : Memory.wf m = true) (o : Nat) (v : Byte) :
    Memory.read (Memory.write m o v) o = v :=
  Memory.read_write_same_from v hm

theorem Memory.write_wfFrom {lo o : Nat} (v : Byte) (ho : o < 1987) :
    ∀ {m : Memory}, lo ≤ o → Memory.wfFrom lo m = true → Memory.wfFrom lo (Memory.write m o v) = true
  | [], hlo, _ => by
    unfold Memory.write
    split
    · rfl
    · next hv => exact Memory.wfFrom_cons.2 ⟨hlo, ho, hv, rfl⟩
  | (a, b) :: m, hlo, hm => by
    have hm' := hm
    rw [Memory.wfFrom_cons] at hm
    unfold Memory.write
    split
    · next hlt =>
      split
      · exact hm'
      · next hv =>
        exact Memory.wfFrom_cons.2 ⟨hlo, ho, hv, Memory.wfFrom_cons.2 ⟨hlt, hm.2⟩⟩
    · split
      · next heq =>
        subst heq
        split
        · exact Memory.wfFrom_weaken (by omega) hm.2.2.2
        · next hv => exact Memory.wfFrom_cons.2 ⟨hlo, ho, hv, hm.2.2.2⟩
      · exact Memory.wfFrom_cons.2 ⟨hm.1, hm.2.1, hm.2.2.1,
          Memory.write_wfFrom v ho (by omega) hm.2.2.2⟩

/-- A write inside the record keeps the canonical form. -/
theorem Memory.write_wf {m : Memory} (hm : Memory.wf m = true) {o : Nat} (ho : o < 1987) (v : Byte) :
    Memory.wf (Memory.write m o v) = true :=
  Memory.write_wfFrom v ho (Nat.zero_le o) hm

/-- Every record operation that answers keeps the canonical form. -/
theorem memWrite_wf {m m' : Memory} {o : Nat} {v : Byte} (hm : Memory.wf m = true)
    (h : memWrite m o v = some m') : Memory.wf m' = true := by
  unfold memWrite at h
  split at h
  · next ho => cases h; exact Memory.write_wf hm ho v
  · cases h

/-- What a record write answers. -/
theorem memWrite_eq_some {m m' : Memory} {o : Nat} {v : Byte} :
    memWrite m o v = some m' ↔ o < 1987 ∧ m' = Memory.write m o v := by
  unfold memWrite
  split <;> rename_i h <;> simp [Config.recSize] at h <;> simp [h, eq_comm]

/-- What a record read answers. -/
theorem memRead_eq_some {m : Memory} {o : Nat} {b : Byte} :
    memRead m o = some b ↔ o < 1987 ∧ b = Memory.read m o := by
  unfold memRead
  split <;> rename_i h <;> simp [Config.recSize] at h <;> simp [h, eq_comm]

/-- Records in canonical form with the same bytes are the same data. -/
theorem Memory.ext_from {lo : Nat} :
    ∀ {m m' : Memory}, Memory.wfFrom lo m = true → Memory.wfFrom lo m' = true →
      (∀ o, Memory.read m o = Memory.read m' o) → m = m'
  | [], [], _, _, _ => rfl
  | [], (a, b) :: m', _, hm', h => by
    rw [Memory.wfFrom_cons] at hm'
    have := h a
    simp [Memory.read] at this
    exact absurd this.symm hm'.2.2.1
  | (a, b) :: m, [], hm, _, h => by
    rw [Memory.wfFrom_cons] at hm
    have := h a
    simp [Memory.read] at this
    exact absurd this hm.2.2.1
  | (a, b) :: m, (a', b') :: m', hm, hm', h => by
    have hm0 := hm
    have hm0' := hm'
    rw [Memory.wfFrom_cons] at hm hm'
    have haa : a = a' := by
      rcases Nat.lt_trichotomy a a' with hlt | heq | hgt
      · have h1 := h a
        have h2 := Memory.read_below (lo := a') (o := a) hlt
          (Memory.wfFrom_cons.2 ⟨le_refl a', hm'.2⟩ : Memory.wfFrom a' ((a', b') :: m') = true)
        rw [h2] at h1
        simp [Memory.read] at h1
        exact absurd h1 hm.2.2.1
      · exact heq
      · have h1 := h a'
        have h2 := Memory.read_below (lo := a) (o := a') hgt
          (Memory.wfFrom_cons.2 ⟨le_refl a, hm.2⟩ : Memory.wfFrom a ((a, b) :: m) = true)
        rw [h2] at h1
        simp [Memory.read] at h1
        exact absurd h1.symm hm'.2.2.1
    subst haa
    have hbb : b = b' := by simpa [Memory.read] using h a
    subst hbb
    have : m = m' := Memory.ext_from hm.2.2.2 hm'.2.2.2 fun o => by
      have ho := h o
      by_cases hoa : o = a
      · subst hoa
        rw [Memory.read_below (Nat.lt_succ_self o) hm.2.2.2,
          Memory.read_below (Nat.lt_succ_self o) hm'.2.2.2]
      · simpa [Memory.read, hoa] using ho
    rw [this]

end Sys2Proof.Machine
end

