-- ==== Sys2Proof/Laws/Operands.lean ====
section
/-! SUPPORT. What the operand and width operations compute. -/

namespace Sys2Proof.Machine

theorem clog2From_spec (n : Nat) :
    ∀ (fuel k : Nat), n ≤ 2 ^ (k + fuel) → (∀ j, n ≤ 2 ^ j → k ≤ j) →
      n ≤ 2 ^ clog2From fuel k n ∧ ∀ j, n ≤ 2 ^ j → clog2From fuel k n ≤ j
  | 0, k, hle, hleast => ⟨by simpa [clog2From] using hle, by simpa [clog2From] using hleast⟩
  | fuel + 1, k, hle, hleast => by
    unfold clog2From
    split
    · next h => exact ⟨h, hleast⟩
    · next h =>
      refine clog2From_spec n fuel (k + 1) (by rwa [Nat.add_right_comm, Nat.add_assoc]) fun j hj => ?_
      rcases Nat.lt_or_ge k j with hlt | hge
      · exact hlt
      · exact absurd (le_trans hj (Nat.pow_le_pow_right (by decide) hge)) h

/-- `clog2(n)` is the least `k` with `2^k >= n` (00_scope.md section 4). -/
theorem clog2_isLeast (n : Nat) : n ≤ 2 ^ clog2 n ∧ ∀ j, n ≤ 2 ^ j → clog2 n ≤ j :=
  clog2From_spec n n 0 (by simpa using Nat.lt_two_pow_self.le) fun j _ => Nat.zero_le j

theorem fitsSigned_iff {n : Nat} {v : Int} :
    fitsSigned n v = true ↔ -((2 ^ (n - 1) : Nat) : Int) ≤ v ∧ v < ((2 ^ (n - 1) : Nat) : Int) := by
  simp [fitsSigned]

/-- Every sample operand is a value of `SAMPLE_W` bits: every argument is a legal sample (R202). -/
theorem sampleOperand_fits (p : Params) (arg : BitVec 28) :
    fitsSigned p.sampleW (sampleOperand p arg) = true := by
  have hlo := BitVec.le_toInt (x := arg.setWidth p.sampleW)
  have hhi := BitVec.toInt_lt (x := arg.setWidth p.sampleW)
  rw [fitsSigned_iff]
  push_cast
  exact ⟨hlo, hhi⟩

theorem satInc16_toNat (v : BitVec 16) : (satInc16 v).toNat = min (v.toNat + 1) 65535 := by
  unfold satInc16
  split
  · next h => rw [BitVec.toNat_add]; simp; omega
  · next h => have := v.isLt; simp; omega

@[simp] theorem satInc11_val (c : Fin 12) : (satInc11 c).val = min (c.val + 1) 11 := rfl

end Sys2Proof.Machine
end

