-- ==== Sys2Proof/Laws/PerInstr.lean ====
section
/-! SUPPORT. Families of facts about every command as syntax, one lemma per constructor. -/

namespace Sys2Proof.Laws

/-- The opcode mask keeps the opcode field and clears the argument (R71, R73). -/
theorem word_and_rowMask (op : BitVec 4) (arg : BitVec 28) :
    ((op.setWidth 32 <<< 28) ||| arg.setWidth 32) &&& rowMask = op.setWidth 32 <<< 28 := by
  apply BitVec.eq_of_getLsbD_eq
  intro i hi
  unfold rowMask
  interval_cases i <;> simp

/-- The four opcode bits of a word are those of what the opcode mask leaves of it (R73). -/
theorem opcode_bits_of_masked {w m : Word} (h : w &&& rowMask = m) :
    w[31] = m[31] ∧ w[30] = m[30] ∧ w[29] = m[29] ∧ w[28] = m[28] := by
  subst h
  unfold rowMask
  simp

/-- The word of a command matches its own row of the opcode map (R73). -/
def OpcodeRow.Statement (i : Instr) : Prop := encode i &&& rowMask = rowMatch i

theorem OpcodeRow.nop : OpcodeRow.Statement .nop :=
  word_and_rowMask 0x0 (argument .nop)

theorem OpcodeRow.sample (arg : BitVec 28) : OpcodeRow.Statement (.sample arg) :=
  word_and_rowMask 0x1 (argument (.sample arg))

theorem OpcodeRow.reset : OpcodeRow.Statement .reset :=
  word_and_rowMask 0x2 (argument .reset)

theorem OpcodeRow.readStatus : OpcodeRow.Statement .readStatus :=
  word_and_rowMask 0x3 (argument .readStatus)

theorem OpcodeRow.readValid : OpcodeRow.Statement .readValid :=
  word_and_rowMask 0x4 (argument .readValid)

theorem OpcodeRow.readPayload (i : Nat) : OpcodeRow.Statement (.readPayload i) :=
  word_and_rowMask 0x5 (argument (.readPayload i))

theorem OpcodeRow.readRecord (o : Nat) : OpcodeRow.Statement (.readRecord o) :=
  word_and_rowMask 0x6 (argument (.readRecord o))

theorem OpcodeRow.readDebug (sel : Nat) : OpcodeRow.Statement (.readDebug sel) :=
  word_and_rowMask 0x7 (argument (.readDebug sel))

theorem OpcodeRow.readWindow (k : Nat) : OpcodeRow.Statement (.readWindow k) :=
  word_and_rowMask 0x8 (argument (.readWindow k))

theorem OpcodeRow.readConfig (sel : Nat) : OpcodeRow.Statement (.readConfig sel) :=
  word_and_rowMask 0x9 (argument (.readConfig sel))

theorem OpcodeRow.reservedA : OpcodeRow.Statement .reservedA :=
  word_and_rowMask 0xA (argument .reservedA)

theorem OpcodeRow.reservedB : OpcodeRow.Statement .reservedB :=
  word_and_rowMask 0xB (argument .reservedB)

theorem OpcodeRow.reservedC : OpcodeRow.Statement .reservedC :=
  word_and_rowMask 0xC (argument .reservedC)

theorem OpcodeRow.reservedD : OpcodeRow.Statement .reservedD :=
  word_and_rowMask 0xD (argument .reservedD)

theorem OpcodeRow.reservedE : OpcodeRow.Statement .reservedE :=
  word_and_rowMask 0xE (argument .reservedE)

theorem OpcodeRow.reservedF : OpcodeRow.Statement .reservedF :=
  word_and_rowMask 0xF (argument .reservedF)

end Sys2Proof.Laws
end

