-- ==== Sys2Proof/Laws/Stages.lean ====
section
/-! SUPPORT. For each stage, once, everything it can do: the provers cite these instead of unfolding the
stage. -/

namespace Sys2Proof.Machine

/-! ### Edge Detector -/

theorem signOf_neg {v : Int} (h : v < 0) : signOf v = .neg := by simp [signOf, h]
@[simp] theorem signOf_zero : signOf 0 = .zero := rfl
theorem signOf_pos {v : Int} (h : 0 < v) : signOf v = .pos := by
  have h1 : ¬ v < 0 := by omega
  have h2 : ¬ v = 0 := by omega
  simp [signOf, h1, h2]

theorem signOf_eq_zero_iff {v : Int} : signOf v = .zero ↔ v = 0 := by
  unfold signOf
  split
  · simp; omega
  · split <;> simp_all

/-- The Edge Detector after sample `x`, when `old` leaves the window. -/
def edgeAfter (p : Params) (x old : Int) (e : EdgeState) : EdgeState :=
  { win := e.win.set e.widx x
    sum := e.sum - old + x
    widx := (e.widx + 1) % p.w
    curSign := signOf (e.sum - old + x)
    runCnt := if signOf (e.sum - old + x) = e.curSign then satInc16 e.runCnt else 1 }

/-- The Edge Detector answers exactly when `win[widx]` exists, with the next state of R102 and a
transition exactly on a change of sign (R104). -/
theorem edgeObserve_of_entry {p : Params} {x old : Int} {e : EdgeState} (h : e.win[e.widx]? = some old) :
    edgeObserve p x e = some (edgeAfter p x old e,
      if signOf (e.sum - old + x) = e.curSign then none else some e.runCnt) := by
  unfold edgeObserve edgeAfter
  rw [h]
  by_cases hs : signOf (e.sum - old + x) = e.curSign <;> simp [hs]

theorem edgeObserve_eq_some {p : Params} {x : Int} {e e' : EdgeState} {ev : Option (BitVec 16)}
    (h : edgeObserve p x e = some (e', ev)) :
    ∃ old, e.win[e.widx]? = some old ∧ e' = edgeAfter p x old e ∧
      ev = if signOf (e.sum - old + x) = e.curSign then none else some e.runCnt := by
  cases hw : e.win[e.widx]? with
  | none => simp [edgeObserve, hw] at h
  | some old =>
    rw [edgeObserve_of_entry hw] at h
    simp only [Option.some.injEq, Prod.mk.injEq] at h
    exact ⟨old, rfl, h.1.symm, h.2.symm⟩

/-! ### Pulse Classifier -/

theorem classBit_eq_some {c : PulseClass} {b : Bool} :
    classBit c = some b ↔ c = if b then .one else .zero := by
  cases c <;> cases b <;> simp [classBit]

theorem classBit_eq_none {c : PulseClass} : classBit c = none ↔ c = .ignore := by
  cases c <;> simp [classBit]

/-! ### Framer -/

/-- The shift, bit by bit (R142). -/
theorem shiftIn_getLsbD (b : Bool) (r : BitVec 11) (k : Nat) :
    (shiftIn b r).getLsbD k = if k = 10 then b else decide (k < 10) && r.getLsbD (k + 1) := by
  unfold shiftIn
  rcases Nat.lt_trichotomy k 10 with h | h | h
  · have h1 : ¬ k = 10 := by omega
    simp [h, h1, Nat.add_comm]
  · subst h
    cases b <;> simp
  · have h1 : ¬ k = 10 := by omega
    have h2 : ¬ k < 10 := by omega
    have h3 : ¬ k < 11 := by omega
    simp [h1, h2, h3]
    exact BitVec.getLsbD_of_ge _ _ (by omega)

/-- The match condition, bit by bit (R144). -/
theorem frameMatch_iff (r : BitVec 11) :
    frameMatch r = true ↔ r.getLsbD 10 = true ∧ r.getLsbD 9 = true ∧ r.getLsbD 0 = false := by
  unfold frameMatch
  rw [beq_iff_eq]
  constructor
  · intro h
    have h10 := congrArg (fun v => v.getLsbD 10) h
    have h9 := congrArg (fun v => v.getLsbD 9) h
    have h0 := congrArg (fun v => v.getLsbD 0) h
    simp at h10 h9 h0
    exact ⟨by simpa using h10, by simpa using h9, by simpa using h0⟩
  · rintro ⟨h10, h9, h0⟩
    apply BitVec.eq_of_getLsbD_eq
    intro i hi
    interval_cases i <;> simp_all

/-- A push either completes a frame or emits nothing; the register shifts either way (R141). -/
theorem framePush_cases (b : Bool) (f : FramerState) :
    (10 ≤ f.fcnt.val ∧ frameMatch (shiftIn b f.freg) = true ∧
      framePush b f = ({ freg := shiftIn b f.freg, fcnt := 0 }, some (frameByte (shiftIn b f.freg)))) ∨
    (¬ (10 ≤ f.fcnt.val ∧ frameMatch (shiftIn b f.freg) = true) ∧
      framePush b f = ({ freg := shiftIn b f.freg, fcnt := satInc11 f.fcnt }, none)) := by
  have hc : satInc11 f.fcnt = 11 ↔ 10 ≤ f.fcnt.val := by
    rw [Fin.ext_iff, satInc11_val]
    have := f.fcnt.isLt
    simp
  unfold framePush
  by_cases h : satInc11 f.fcnt = 11 ∧ frameMatch (shiftIn b f.freg) = true
  · left
    exact ⟨hc.1 h.1, h.2, by simp [h]⟩
  · right
    refine ⟨fun h' => h ⟨hc.2 h'.1, h'.2⟩, ?_⟩
    simp only [if_neg h]

@[simp] theorem framePush_freg (b : Bool) (f : FramerState) : (framePush b f).1.freg = shiftIn b f.freg := by
  rcases framePush_cases b f with ⟨-, -, h⟩ | ⟨-, h⟩ <;> rw [h]

/-! ### Payload Assembler -/

theorem assembleWrite_eq_some {y : Byte} {a a' : AsmState} (h : assembleWrite y a = some a') :
    a.wrPtr.val < 1987 ∧ a'.record = Memory.write a.record a.wrPtr.val y ∧
      a'.wrPtr.val = a.wrPtr.val + 1 := by
  unfold assembleWrite at h
  split at h
  · next hlt =>
    have hw : memWrite a.record a.wrPtr.val y = some (Memory.write a.record a.wrPtr.val y) :=
      memWrite_eq_some.2 ⟨hlt, rfl⟩
    rw [hw] at h
    cases h
    exact ⟨hlt, rfl, rfl⟩
  · cases h

/-- There is always an answer while the record has room. -/
theorem assembleWrite_isSome (y : Byte) {a : AsmState} (h : a.wrPtr.val < 1987) :
    ∃ a', assembleWrite y a = some a' := by
  unfold assembleWrite
  have hw : memWrite a.record a.wrPtr.val y = some (Memory.write a.record a.wrPtr.val y) :=
    memWrite_eq_some.2 ⟨h, rfl⟩
  rw [dif_pos h, hw]
  exact ⟨_, rfl⟩

/-! ### Block Synchronizer -/

theorem rem_toNat_zero_iff {v : BitVec 16} : v.toNat = 0 ↔ v = 0#16 := by
  constructor
  · intro h; exact BitVec.eq_of_toNat_eq (by simpa using h)
  · rintro rfl; rfl

theorem rem_sub_one_toNat {v : BitVec 16} (h : v ≠ 0#16) : (v - 1#16).toNat = v.toNat - 1 := by
  have h0 : v.toNat ≠ 0 := fun h' => h (rem_toNat_zero_iff.1 h')
  have := v.isLt
  rw [BitVec.toNat_sub]
  simp
  omega

/-- Everything the synchronizer can do with a byte when it answers (R161). -/
theorem syncSubmit_eq_ok {p : Params} {y : Byte} {sy : SyncState} {a : AsmState} {r : SyncResult}
    (h : syncSubmit p y sy a = .ok r) :
    (sy.phase = .seekLeader ∧ r.asm = a ∧ r.stored = false ∧
      ((y = 0xFF#8 ∧ sy.rem ≠ 0#16 ∧ r.sync.rem = sy.rem - 1#16 ∧
          r.sync.phase = if sy.rem - 1#16 = 0#16 then .inStream else .seekLeader) ∨
        (y ≠ 0xFF#8 ∧ r.sync = { phase := .seekLeader, rem := leadRem p }))) ∨
    (sy.phase = .inStream ∧ assembleWrite y a = some r.asm ∧ r.stored = true ∧
      r.sync = if a.wrPtr.val + 1 = 1987 then { phase := .seekEnd, rem := endRem p } else sy) ∨
    (sy.phase = .seekEnd ∧ r.asm = a ∧ r.stored = false ∧ r.sync.phase = .seekEnd ∧
      ((sy.rem = 0#16 ∧ r.sync.rem = 0#16) ∨
        (sy.rem ≠ 0#16 ∧ y = 0xFF#8 ∧ r.sync.rem = sy.rem - 1#16) ∨
        (sy.rem ≠ 0#16 ∧ y ≠ 0xFF#8 ∧ r.sync.rem = endRem p))) := by
  unfold syncSubmit at h
  split at h
  · next hp =>
    left
    unfold leaderByte at h
    split at h
    · next hy =>
      split at h
      · cases h
      · next h0 => cases h; exact ⟨hp, rfl, rfl, .inl ⟨hy, h0, rfl, rfl⟩⟩
    · next hy => cases h; exact ⟨hp, rfl, rfl, .inr ⟨hy, rfl⟩⟩
  · next hp =>
    right; left
    unfold streamByte at h
    split at h
    · cases h
    · next a' ha => cases h; exact ⟨hp, ha, rfl, rfl⟩
  · next hp =>
    right; right
    cases h
    unfold endByte
    split
    · next h0 => exact ⟨hp, rfl, rfl, hp, .inl ⟨h0, h0⟩⟩
    · next h0 =>
      split
      · next hy => exact ⟨hp, rfl, rfl, hp, .inr (.inl ⟨h0, hy, rfl⟩)⟩
      · next hy => exact ⟨hp, rfl, rfl, hp, .inr (.inr ⟨h0, hy, rfl⟩)⟩

/-- The synchronizer answers unless a leader byte finds `rem` at 0 or the record is full in
IN_STREAM. -/
theorem syncSubmit_isOk (p : Params) (y : Byte) {sy : SyncState} {a : AsmState}
    (hl : sy.phase = .seekLeader → sy.rem ≠ 0#16) (hs : sy.phase = .inStream → a.wrPtr.val < 1987) :
    ∃ r, syncSubmit p y sy a = .ok r := by
  unfold syncSubmit
  split
  · next hp =>
    unfold leaderByte
    split
    · rw [if_neg (hl hp)]; exact ⟨_, rfl⟩
    · exact ⟨_, rfl⟩
  · next hp =>
    unfold streamByte
    obtain ⟨a', ha⟩ := assembleWrite_isSome y (hs hp)
    rw [ha]
    exact ⟨_, rfl⟩
  · exact ⟨_, rfl⟩

/-! ### The five stages together -/

/-- Everything one sample can do when the stages answer (R202): no transition, an ignored one, a bit
without a byte, or a framed byte. -/
theorem sampleStages_eq_ok {x : Int} {s t : State} {ev : SampleEvent} (h : sampleStages x s = .ok (t, ev)) :
    ∃ e tr, edgeObserve s.cfg x s.edge = some (e, tr) ∧
      ((tr = none ∧ t = { s with edge := e } ∧ ev = quietEvent) ∨
       (∃ d, tr = some d ∧ classify s.cfg d = .ignore ∧ t = { s with edge := e } ∧
          ev = transEvent d .ignore) ∨
       (∃ d b f, tr = some d ∧ classify s.cfg d = (if b then .one else .zero) ∧
          framePush b s.framer = (f, none) ∧ t = { s with edge := e, framer := f } ∧
          ev = transEvent d (if b then .one else .zero)) ∨
       (∃ d b f y r, tr = some d ∧ classify s.cfg d = (if b then .one else .zero) ∧
          framePush b s.framer = (f, some y) ∧ syncSubmit s.cfg y s.sync s.asm = .ok r ∧
          t = { s with edge := e, framer := f, sync := r.sync, asm := r.asm } ∧
          ev = { transEvent d (if b then .one else .zero) with bv := true, y := y, stored := r.stored })) := by
  unfold sampleStages at h
  split at h
  · cases h
  · next e he => cases h; exact ⟨e, none, he, .inl ⟨rfl, rfl, rfl⟩⟩
  · next e d he =>
    refine ⟨e, some d, he, .inr ?_⟩
    unfold transStages at h
    split at h
    · next hb =>
      have hc := classBit_eq_none.1 hb
      simp only [hc] at h
      cases h
      exact .inl ⟨d, rfl, hc, rfl, rfl⟩
    · next b hb =>
      have hc := classBit_eq_some.1 hb
      simp only [hc] at h
      unfold bitStages at h
      split at h
      · next f hf => cases h; exact .inr (.inl ⟨d, b, f, rfl, hc, hf, rfl, rfl⟩)
      · next f y hf =>
        unfold byteStages at h
        split at h
        · cases h
        · next r hr => cases h; exact .inr (.inr ⟨d, b, f, y, r, rfl, hc, hf, hr, rfl, rfl⟩)

/-- The stages answer whenever the Edge Detector and the synchronizer do. -/
theorem sampleStages_isOk (x : Int) {s : State} {old : Int} (hw : s.edge.win[s.edge.widx]? = some old)
    (hl : s.sync.phase = .seekLeader → s.sync.rem ≠ 0#16)
    (hs : s.sync.phase = .inStream → s.asm.wrPtr.val < 1987) : ∃ r, sampleStages x s = .ok r := by
  unfold sampleStages
  rw [edgeObserve_of_entry hw]
  by_cases hsg : signOf (s.edge.sum - old + x) = s.edge.curSign
  · simp [hsg]
  · simp only [hsg, if_false]
    unfold transStages
    split
    · exact ⟨_, rfl⟩
    · unfold bitStages
      split
      · exact ⟨_, rfl⟩
      · next f y _ =>
        obtain ⟨r, hr⟩ := syncSubmit_isOk s.cfg y hl hs
        unfold byteStages
        simp only [hr]
        exact ⟨_, rfl⟩

/-- What `SAMPLE` is when it answers a next state. -/
theorem execSample_eq_next {arg : BitVec 28} {s t : State} (h : execSample arg s = .next t) :
    ∃ u ev, sampleStages (sampleOperand s.cfg arg) s = .ok (u, ev) ∧
      t = respond (sampleResp ev (phaseCode u.sync.phase)) u := by
  unfold execSample at h
  split at h
  · cases h
  · next u ev hu => cases h; exact ⟨u, ev, hu, rfl⟩

end Sys2Proof.Machine
end

