-- ==== Sys2Proof/Laws/State.lean ====
section
/-! SUPPORT. One lemma per field of State for each named update: true by rfl, so that no later proof
unfolds an update. -/

namespace Sys2Proof.Machine

@[simp] theorem respond_cfg (v : Word) (s : State) : (respond v s).cfg = s.cfg := rfl
@[simp] theorem respond_edge (v : Word) (s : State) : (respond v s).edge = s.edge := rfl
@[simp] theorem respond_framer (v : Word) (s : State) : (respond v s).framer = s.framer := rfl
@[simp] theorem respond_sync (v : Word) (s : State) : (respond v s).sync = s.sync := rfl
@[simp] theorem respond_asm (v : Word) (s : State) : (respond v s).asm = s.asm := rfl
@[simp] theorem respond_resp (v : Word) (s : State) : (respond v s).resp = v := rfl
@[simp] theorem respond_respValid (v : Word) (s : State) : (respond v s).respValid = true := rfl
@[simp] theorem respond_clearLeft (v : Word) (s : State) : (respond v s).clearLeft = s.clearLeft := rfl
@[simp] theorem respond_pins (v : Word) (s : State) : (respond v s).pins = s.pins := rfl

@[simp] theorem raiseError_cfg (c : ErrorCode) (s : State) : (raiseError c s).cfg = s.cfg := rfl
@[simp] theorem raiseError_edge (c : ErrorCode) (s : State) : (raiseError c s).edge = s.edge := rfl
@[simp] theorem raiseError_framer (c : ErrorCode) (s : State) : (raiseError c s).framer = s.framer := rfl
@[simp] theorem raiseError_sync (c : ErrorCode) (s : State) : (raiseError c s).sync = s.sync := rfl
@[simp] theorem raiseError_asm (c : ErrorCode) (s : State) : (raiseError c s).asm = s.asm := rfl
@[simp] theorem raiseError_resp (c : ErrorCode) (s : State) : (raiseError c s).resp = errorWord c := rfl
@[simp] theorem raiseError_respValid (c : ErrorCode) (s : State) : (raiseError c s).respValid = true := rfl
@[simp] theorem raiseError_clearLeft (c : ErrorCode) (s : State) : (raiseError c s).clearLeft = s.clearLeft := rfl
@[simp] theorem raiseError_pins (c : ErrorCode) (s : State) : (raiseError c s).pins = s.pins := rfl

@[simp] theorem applyReset_cfg (s : State) : (applyReset s).cfg = s.cfg := rfl
@[simp] theorem applyReset_edge (s : State) : (applyReset s).edge = (State.resetWith s.cfg).edge := rfl
@[simp] theorem applyReset_framer (s : State) : (applyReset s).framer = (State.resetWith s.cfg).framer := rfl
@[simp] theorem applyReset_sync (s : State) : (applyReset s).sync = (State.resetWith s.cfg).sync := rfl
@[simp] theorem applyReset_asm (s : State) : (applyReset s).asm = (State.resetWith s.cfg).asm := rfl
@[simp] theorem applyReset_resp (s : State) : (applyReset s).resp = (State.resetWith s.cfg).resp := rfl
@[simp] theorem applyReset_respValid (s : State) : (applyReset s).respValid = (State.resetWith s.cfg).respValid := rfl
@[simp] theorem applyReset_clearLeft (s : State) : (applyReset s).clearLeft = (State.resetWith s.cfg).clearLeft := rfl
@[simp] theorem applyReset_pins (s : State) : (applyReset s).pins = s.pins := rfl

@[simp] theorem passEdge_cfg (s : State) : (passEdge s).cfg = s.cfg := rfl
@[simp] theorem passEdge_edge (s : State) : (passEdge s).edge = s.edge := rfl
@[simp] theorem passEdge_framer (s : State) : (passEdge s).framer = s.framer := rfl
@[simp] theorem passEdge_sync (s : State) : (passEdge s).sync = s.sync := rfl
@[simp] theorem passEdge_asm (s : State) : (passEdge s).asm = s.asm := rfl
@[simp] theorem passEdge_resp (s : State) : (passEdge s).resp = s.resp := rfl
@[simp] theorem passEdge_respValid (s : State) : (passEdge s).respValid = s.respValid := rfl
@[simp] theorem passEdge_clearLeft (s : State) : (passEdge s).clearLeft = s.clearLeft := rfl
@[simp] theorem passEdge_pins (s : State) : (passEdge s).pins = s.pins.tail := rfl

@[simp] theorem idleCycle_cfg (s : State) : (idleCycle s).cfg = s.cfg := rfl
@[simp] theorem idleCycle_edge (s : State) : (idleCycle s).edge = s.edge := rfl
@[simp] theorem idleCycle_framer (s : State) : (idleCycle s).framer = s.framer := rfl
@[simp] theorem idleCycle_sync (s : State) : (idleCycle s).sync = s.sync := rfl
@[simp] theorem idleCycle_asm (s : State) : (idleCycle s).asm = s.asm := rfl
@[simp] theorem idleCycle_resp (s : State) : (idleCycle s).resp = s.resp := rfl
@[simp] theorem idleCycle_respValid (s : State) : (idleCycle s).respValid = false := rfl
@[simp] theorem idleCycle_clearLeft (s : State) : (idleCycle s).clearLeft = s.clearLeft - 1 := rfl
@[simp] theorem idleCycle_pins (s : State) : (idleCycle s).pins = s.pins := rfl

@[simp] theorem withFetchWord_cfg (s : State) (n w : Nat) : (s.withFetchWord n w).cfg = s.cfg := rfl
@[simp] theorem withFetchWord_edge (s : State) (n w : Nat) : (s.withFetchWord n w).edge = s.edge := rfl
@[simp] theorem withFetchWord_framer (s : State) (n w : Nat) : (s.withFetchWord n w).framer = s.framer := rfl
@[simp] theorem withFetchWord_sync (s : State) (n w : Nat) : (s.withFetchWord n w).sync = s.sync := rfl
@[simp] theorem withFetchWord_asm (s : State) (n w : Nat) : (s.withFetchWord n w).asm = s.asm := rfl
@[simp] theorem withFetchWord_resp (s : State) (n w : Nat) : (s.withFetchWord n w).resp = s.resp := rfl
@[simp] theorem withFetchWord_respValid (s : State) (n w : Nat) : (s.withFetchWord n w).respValid = s.respValid := rfl
@[simp] theorem withFetchWord_clearLeft (s : State) (n w : Nat) : (s.withFetchWord n w).clearLeft = 0 := rfl
@[simp] theorem withFetchWord_pins (s : State) (n w : Nat) : (s.withFetchWord n w).pins =
    { rst := false, cmdValid := true, cmd := BitVec.ofNat 32 (w % 2 ^ n) } :: s.pins := rfl

@[simp] theorem resetWith_cfg (p : Params) : (State.resetWith p).cfg = p := rfl
@[simp] theorem resetWith_edge (p : Params) : (State.resetWith p).edge =
    { win := List.replicate p.w 0, sum := 0, widx := 0, curSign := .zero, runCnt := 0 } := rfl
@[simp] theorem resetWith_framer (p : Params) : (State.resetWith p).framer = { freg := 0, fcnt := 0 } := rfl
@[simp] theorem resetWith_sync (p : Params) : (State.resetWith p).sync =
    { phase := .seekLeader, rem := BitVec.ofNat 16 p.leadLen } := rfl
@[simp] theorem resetWith_asm (p : Params) : (State.resetWith p).asm = { record := [], wrPtr := 0 } := rfl
@[simp] theorem resetWith_resp (p : Params) : (State.resetWith p).resp = 0 := rfl
@[simp] theorem resetWith_respValid (p : Params) : (State.resetWith p).respValid = false := rfl
@[simp] theorem resetWith_clearLeft (p : Params) : (State.resetWith p).clearLeft = p.clearCycles := rfl
@[simp] theorem resetWith_pins (p : Params) : (State.resetWith p).pins = [] := rfl

end Sys2Proof.Machine
end

