-- ==== Sys2Proof/Laws/Step.lean ====
section
/-! SUPPORT. Once, everything an edge can do, and what each reading meaning answers. -/

namespace Sys2Proof.Machine

/-- The three things an edge can do when it gives a next state (R200, R250). -/
theorem step_eq_next {s t : State} (h : step s = .next t) :
    s.cfg.legal = true ∧
    ((portEvent s = .reset ∧ t = applyReset (passEdge s)) ∨
     (portEvent s = .idle ∧ t = idleCycle (passEdge s)) ∨
     (∃ w, portEvent s = .command w ∧ held s = true ∧ exec (decode w) (passEdge s) = .next t)) := by
  unfold step at h
  split at h
  · next hl =>
    refine ⟨hl, ?_⟩
    split at h
    · next hp => cases h; exact .inl ⟨hp, rfl⟩
    · next hp => cases h; exact .inr (.inl ⟨hp, rfl⟩)
    · next w hp =>
      split at h
      · next hh => exact .inr (.inr ⟨w, hp, hh, h⟩)
      · cases h
  · cases h

/-- What the port does when the host drives something at the coming edge (R70, R260). -/
theorem portEvent_of_pins {s : State} {c : PinCycle} {rest : List PinCycle} (h : s.pins = c :: rest) :
    portEvent s = if c.rst then .reset
      else if c.cmdValid && s.clearLeft == 0 then .command c.cmd else .idle := by
  unfold portEvent
  rw [h]
  rfl

theorem execReadPayload_eq_next {i : Nat} {s t : State} (h : execReadPayload i s = .next t) :
    (1920 ≤ i ∧ t = raiseError .range s) ∨
    (i < 1920 ∧ t = respond (flaggedByte (validFlag s) (Memory.read s.asm.record (payOff i))) s) := by
  unfold execReadPayload at h
  split at h
  · next hi => cases h; exact .inl ⟨hi, rfl⟩
  · next hi =>
    split at h
    · cases h
    · next b hb =>
      cases h
      rw [(memRead_eq_some.1 hb).2]
      exact .inr ⟨by simpa [Config.payloadSize] using hi, rfl⟩

/-- Every payload index below 1920 is a byte of the record (R52). -/
theorem payOff_lt {i : Nat} (h : i < 1920) : payOff i < 1987 := by
  unfold payOff
  omega

theorem execReadRecord_eq_next {o : Nat} {s t : State} (h : execReadRecord o s = .next t) :
    (1987 ≤ o ∧ t = raiseError .range s) ∨
    (o < 1987 ∧
      t = respond (flaggedByte (decide (o < s.asm.wrPtr.val)) (Memory.read s.asm.record o)) s) := by
  unfold execReadRecord at h
  split at h
  · next hi => cases h; exact .inl ⟨hi, rfl⟩
  · next hi =>
    split at h
    · cases h
    · next b hb =>
      cases h
      rw [(memRead_eq_some.1 hb).2]
      exact .inr ⟨by simpa [Config.recSize] using hi, rfl⟩

theorem execReadDebug_eq_next {sel : Nat} {s t : State} (h : execReadDebug sel s = .next t) :
    (debugWord sel s = none ∧ t = raiseError .select s) ∨
    (∃ v, debugWord sel s = some v ∧ t = respond v s) := by
  unfold execReadDebug at h
  split at h
  · next hd => cases h; exact .inl ⟨hd, rfl⟩
  · next v hd => cases h; exact .inr ⟨v, hd, rfl⟩

theorem execReadWindow_eq_next {k : Nat} {s t : State} (h : execReadWindow k s = .next t) :
    (s.cfg.w ≤ k ∧ t = raiseError .range s) ∨
    (∃ x, s.edge.win[k]? = some x ∧ t = respond (BitVec.ofInt 32 x) s) := by
  unfold execReadWindow at h
  split at h
  · next hk => cases h; exact .inl ⟨hk, rfl⟩
  · split at h
    · cases h
    · next x hx => cases h; exact .inr ⟨x, hx, rfl⟩

theorem execReadConfig_eq_next {sel : Nat} {s t : State} (h : execReadConfig sel s = .next t) :
    (configValue sel s.cfg = none ∧ t = raiseError .select s) ∨
    (∃ v, configValue sel s.cfg = some v ∧ t = respond (BitVec.ofNat 32 v) s) := by
  unfold execReadConfig at h
  split at h
  · next hd => cases h; exact .inl ⟨hd, rfl⟩
  · next v hd => cases h; exact .inr ⟨v, hd, rfl⟩

end Sys2Proof.Machine
end

