-- ==== Sys2Proof/Tests/Slice0.lean ====
section
/-! SUPPORT. Tests. Expected values come from spec/95_test_vectors.md or from hand calculation by the
rule named. Theorems named `witness_<Statement>` show that the hypotheses of that statement can be met,
each clause at a boundary value. -/

namespace Sys2Proof.Tests

open Sys2Proof Sys2Proof.Machine

/-! ### Helpers -/

/-- The response of an outcome. -/
def respOf : Host.Outcome State Fault Refusal → Option Word
  | .next t => some t.resp
  | .fault _ => none
  | .refused _ => none

/-- The next state of an outcome. -/
def nextOf : Host.Outcome State Fault Refusal → Option State
  | .next t => some t
  | .fault _ => none
  | .refused _ => none

theorem exists_next {o : Host.Outcome State Fault Refusal} (h : (nextOf o).isSome = true) :
    ∃ t, o = .next t := by
  cases o with
  | next t => exact ⟨t, rfl⟩
  | fault _ => cases h
  | refused _ => cases h

theorem exists_next_with {o : Host.Outcome State Fault Refusal} (f : State → Bool) {b : Bool}
    (h : (nextOf o).map f = some b) : ∃ t, o = .next t ∧ f t = b := by
  cases o with
  | next t => exact ⟨t, rfl, Option.some.inj h⟩
  | fault _ => cases h
  | refused _ => cases h

/-- One word through the port, by `step`. -/
def sendWord (s : State) (w : Nat) : Host.Outcome State Fault Refusal := step (s.withFetchWord 32 w)

/-- The parameters of the vectors (95_test_vectors.md section 0), with P3's leader and end block. -/
def p3 : Params := { rect := 4, w := 1, leadLen := 2, endLen := 1, sampleW := 24, clearCycles := 0 }

/-- The end state of P3. -/
def p3End : State :=
  { State.resetWith p3 with
    edge := { win := [-100], sum := -100, widx := 0, curSign := .neg, runCnt := 1 }
    framer := { freg := 0x684, fcnt := 0 }
    sync := { phase := .inStream, rem := 0 }
    asm := { record := [(0, 0x42)], wrPtr := 1 } }

/-- P3 after sample 168: the last bit of the 0x42 frame is still to come, in phase IN_STREAM. -/
def p3Before : State :=
  { State.resetWith p3 with
    edge := { win := [100], sum := 100, widx := 0, curSign := .pos, runCnt := 4 }
    framer := { freg := 0x509, fcnt := 10 }
    sync := { phase := .inStream, rem := 0 } }

/-- The 33 nonzero bytes of the PA-3 record (R189). -/
def pa3 : Memory :=
  (0, 0x42) :: (1, 0x03) :: (List.range 30).map (fun j => (j + 2, BitVec.ofNat 8 (j + 1))) ++ [(32, 0xD1)]

/-- A block whose record is PA-2, full, in SEEK_END with one end byte to come. -/
def pa2State : State :=
  { State.resetWith p3 with
    sync := { phase := .seekEnd, rem := 1 }
    asm := { record := [(0, 0x42), (1, 0x03)], wrPtr := 1987 } }

/-! ### WellFormed refuses an operand that does not fit its field (R72) -/

theorem test_illFormed_readPayload : (Instr.readPayload 2048).wellFormed = false := by decide
theorem test_illFormed_readRecord : (Instr.readRecord 2048).wellFormed = false := by decide
theorem test_illFormed_readDebug : (Instr.readDebug 16).wellFormed = false := by decide
theorem test_illFormed_readWindow : (Instr.readWindow 256).wellFormed = false := by decide
theorem test_illFormed_readConfig : (Instr.readConfig 16).wellFormed = false := by decide

/-! ### Words written out bit by bit from R71 to R73: opcode, ignored bits, field -/

theorem test_decode_nop : decode 0b00001111111111111111111111111111#32 = .nop := by decide
theorem test_decode_sample : decode 0b00010000111111111111111110011100#32 = .sample 0xFFFF9C#28 := by decide
theorem test_decode_reset : decode 0b00100000000000000000000000000000#32 = .reset := by decide
theorem test_decode_readStatus : decode 0b00111111111111111111111111111111#32 = .readStatus := by decide
theorem test_decode_readValid : decode 0b01000000000000000000000000000001#32 = .readValid := by decide
theorem test_decode_readPayload : decode 0b01010000000000000000011101111111#32 = .readPayload 1919 := by decide
theorem test_decode_readRecord : decode 0b01101000000000000000011111000011#32 = .readRecord 1987 := by decide
theorem test_decode_readDebug : decode 0b01110000000000000000000000011001#32 = .readDebug 9 := by decide
theorem test_decode_readWindow : decode 0b10000000000000000000000110000000#32 = .readWindow 128 := by decide
theorem test_decode_readConfig : decode 0b10010000000000000000000000000110#32 = .readConfig 6 := by decide
theorem test_decode_reservedA : decode 0b10100000000000000000000000000000#32 = .reservedA := by decide
theorem test_decode_reservedB : decode 0b10110001001000110100010101100111#32 = .reservedB := by decide
theorem test_decode_reservedC : decode 0b11000000000000000000000000000000#32 = .reservedC := by decide
theorem test_decode_reservedD : decode 0b11010000000000000000000000000000#32 = .reservedD := by decide
theorem test_decode_reservedE : decode 0b11100000000000000000000000000000#32 = .reservedE := by decide
theorem test_decode_reservedF : decode 0b11111111111111111111111111111111#32 = .reservedF := by decide
/-- R71: nothing longer than one word is a command. -/
theorem test_decode_tooLong : decodeTableWord 33 0 = none := by decide

/-! ### One command each (HT-1, P3, P5, PA-2, PA-3, ED-1) -/

theorem test_nop : respOf (sendWord p3End 0x0FFFFFFF) = some 0x00000000#32 := by decide
/-- ED-1, W = 4. -/
theorem test_sample_first :
    (nextOf (sendWord State.reset 0x10000064)).map (fun t => (t.resp, t.edge)) =
      some (0x50000000#32, { win := [100, 0, 0, 0], sum := 100, widx := 1, curSign := .pos, runCnt := 1 }) := by
  decide
/-- P3, sample 169. -/
theorem test_sample_stores :
    (nextOf (sendWord p3Before 0x10FFFF9C)).map (fun t => (t.resp, t.framer, t.sync, t.asm)) =
      some (0x7D420004#32, p3End.framer, p3End.sync, p3End.asm) := by
  decide
/-- P5, 29 to 33. -/
theorem test_reset : nextOf (sendWord p3End 0x20000000) = some { State.resetWith p3 with respValid := true } := by
  decide
theorem test_readStatus : respOf (sendWord p3End 0x30000000) = some 0x000001C1#32 := by decide
theorem test_readValid : respOf (sendWord p3End 0x40000000) = some 0x00000000#32 := by decide
theorem test_readPayload : respOf (sendWord pa2State 0x5000001E) = some 0x00000100#32 := by decide +kernel
theorem test_readPayload_range : respOf (sendWord p3End 0x50000780) = some 0x80000002#32 := by decide
theorem test_readRecord : respOf (sendWord p3End 0x60000000) = some 0x00000142#32 := by decide
theorem test_readRecord_range : respOf (sendWord p3End 0x600007C3) = some 0x80000002#32 := by decide
theorem test_readDebug_sum :
    respOf (sendWord p3End 0x70000005) = some 0xFFFFFF9C#32 ∧
    respOf (sendWord p3End 0x70000006) = some 0xFFFFFFFF#32 := by decide
theorem test_readDebug_select : respOf (sendWord p3End 0x7000000A) = some 0x80000003#32 := by decide
theorem test_readWindow : respOf (sendWord p3End 0x80000000) = some 0xFFFFFF9C#32 := by decide
theorem test_readWindow_range : respOf (sendWord p3End 0x80000001) = some 0x80000002#32 := by decide
theorem test_readConfig : respOf (sendWord p3End 0x90000006) = some 0x00000006#32 := by decide
theorem test_readConfig_select : respOf (sendWord p3End 0x90000007) = some 0x80000003#32 := by decide
theorem test_reserved :
    [0xA0000000, 0xB1234567, 0xC0000000, 0xD0000000, 0xE0000000, 0xFFFFFFFF].map
      (fun w => nextOf (sendWord p3End w)) =
      List.replicate 6 (some { p3End with resp := 0x80000001#32, respValid := true }) := by decide

/-! ### The stages -/

/-- CL-1, RECT = 4. -/
theorem test_classify :
    [0#16, 1#16, 2#16, 3#16, 4#16, 5#16, 6#16, 7#16, 8#16, 65535#16].map (classify p3) =
      [.ignore, .ignore, .ignore, .one, .one, .one, .one, .zero, .zero, .zero] := by decide
/-- FR-9: a false alignment, then the lock. -/
theorem test_framer_lock :
    (pushBits ([true, true, false] ++ wireFrame 0xFF ++ wireFrame 0xFF ++ wireFrame 0xFF)
      { freg := 0, fcnt := 0 }).1 = { freg := 0x7FE, fcnt := 0 } ∧
    (pushBits ([true, true, false] ++ wireFrame 0xFF ++ wireFrame 0xFF ++ wireFrame 0xFF)
      { freg := 0, fcnt := 0 }).2.filterMap id = [0xFE, 0xFF, 0xFF] := by decide +kernel
/-- SB-2, LEAD_LEN = 3. -/
theorem test_leader_restart :
    submitBytes { p3 with leadLen := 3 } [0xFF, 0xFF, 0x00, 0xFF, 0xFF, 0xFF]
      { phase := .seekLeader, rem := 3 } { record := [], wrPtr := 0 } =
    .ok ({ phase := .inStream, rem := 0 }, { record := [], wrPtr := 0 }) := by rfl
/-- SB-5, the byte that fills the record. -/
theorem test_record_fills :
    submitBytes { p3 with endLen := 2 } [0xFF, 0x00, 0xFF] { phase := .inStream, rem := 0 }
      { record := [], wrPtr := 1986 } =
    .ok ({ phase := .seekEnd, rem := 1 }, { record := [(1986, 0xFF)], wrPtr := 1987 }) := by rfl
/-- PA-5, message 0 of PA-3. -/
theorem test_checksum : chk pa3 0 = 0xD1 := by decide
/-- PA-2. -/
theorem test_valid : validFn [(0, 0x42), (1, 0x03)] = true := by decide +kernel
/-- PA-4: a wrong marker byte and a wrong checksum byte. -/
theorem test_invalid :
    validFn [(0, 0x42), (1, 0x02)] = false ∧ validFn [(0, 0x42), (1, 0x03), (32, 0x01)] = false := by
  decide +kernel
/-- PA-7. -/
theorem test_payOff : [0, 29, 30, 59, 60, 1890, 1919].map payOff = [2, 31, 33, 62, 64, 1955, 1984] := by decide

/-! ### Memory, reset and the port -/

theorem test_reset_memory_wf : Memory.wf State.reset.asm.record = true := by decide
/-- Writing the value an unlisted offset reads as removes the entry. -/
theorem test_write_zero_removes : Memory.write [(0, 0x42), (1, 0x03)] 0 0 = [(1, 0x03)] := by decide
/-- HT-4. -/
theorem test_rst_wins :
    nextOf (step { p3End with pins := [{ rst := true, cmdValid := true, cmd := 0x10000064 }] }) =
      some (State.resetWith p3) := by decide

/-! ### The assembler (R87, R88) -/

theorem test_assemble_sample :
    assemble p3 (.sample 100) = some [0x10000064#32] ∧ assemble p3 (.sample (-100)) = some [0x10FFFF9C#32] := by
  decide
theorem test_assemble_refuses :
    assemble p3 (.readPayload 2048) = none ∧ assemble p3 (.sample 8388608) = none ∧
    assemble p3 (.hold 1 0) = none := by decide
theorem test_parse :
    parseLine ['H', 'O', 'L', 'D', ' ', '-', '5', ',', ' ', '0', 'x', '7', 'F', ' ', ';', 'x'] =
      .command (.hold (-5) 127) := by decide

/-! ### Witnesses: the hypotheses of the statements can be met -/

/-- The smallest legal parameters. -/
def lowest : Params := { rect := 1, w := 1, leadLen := 1, endLen := 1, sampleW := 2, clearCycles := 0 }
/-- The largest legal parameters (R6). -/
def highest : Params :=
  { rect := 43689, w := 256, leadLen := 65535, endLen := 65535, sampleW := 28, clearCycles := 0 }

theorem legal_lowest : lowest.legal = true := by decide
theorem legal_highest : highest.legal = true := by decide
theorem legal_p3 : p3.legal = true := by decide

/-- P3 right after reset, W = 1. -/
def p3Reset : State := State.resetWith p3

theorem inv_p3Reset : StateInv p3Reset :=
  { legal := by decide, inRange := by decide, recordWf := by decide, sumOfWindow := by decide
    signOfSum := by decide, leaderEmpty := fun _ => rfl, streamRoom := nofun
    endFull := nofun, unfilledZero := fun _ _ _ => rfl }

theorem inv_p3Before : StateInv p3Before :=
  { legal := by decide, inRange := by decide, recordWf := by decide, sumOfWindow := by decide
    signOfSum := by decide, leaderEmpty := fun _ => rfl, streamRoom := fun _ => by decide
    endFull := nofun, unfilledZero := fun _ _ _ => rfl }

theorem inv_p3End : StateInv p3End :=
  { legal := by decide, inRange := by decide, recordWf := by decide, sumOfWindow := by decide
    signOfSum := by decide, leaderEmpty := nofun, streamRoom := fun _ => by decide
    endFull := nofun
    unfilledZero := fun o h _ => if_neg (Nat.ne_of_gt h) }

/-- Boundary values of each operand field. -/
theorem witness_DecodeInvertsEncode :
    (Instr.sample 0xFFFFFFF#28).wellFormed = true ∧ (Instr.readPayload 2047).wellFormed = true ∧
    (Instr.readRecord 2047).wellFormed = true ∧ (Instr.readDebug 15).wellFormed = true ∧
    (Instr.readWindow 255).wellFormed = true ∧ (Instr.readConfig 15).wellFormed = true := by decide

theorem witness_IgnoredBitsHaveNoEffect :
    (opOf 0x00000000#32 = opOf 0x0FFFFFFF#32 ∧ opOf 0x00000000#32 = 0x0#4) ∧
    (opOf 0x500007FF#32 = opOf 0x5FFFFFFF#32 ∧ opOf 0x500007FF#32 = 0x5#4 ∧
      (0x500007FF#32).extractLsb' 0 11 = (0x5FFFFFFF#32).extractLsb' 0 11) ∧
    (opOf 0x7000000F#32 = opOf 0x7FFFFFFF#32 ∧ opOf 0x7000000F#32 = 0x7#4 ∧
      (0x7000000F#32).extractLsb' 0 4 = (0x7FFFFFFF#32).extractLsb' 0 4) ∧
    (opOf 0x80000000#32 = opOf 0x8FFFFF00#32 ∧ opOf 0x80000000#32 = 0x8#4 ∧
      (0x80000000#32).extractLsb' 0 8 = (0x8FFFFF00#32).extractLsb' 0 8) ∧
    (0xFFFFF9C#28).setWidth p3Reset.cfg.sampleW = (0x0FFFF9C#28).setWidth p3Reset.cfg.sampleW ∧
    (0xFFFFF9C#28).setWidth p3Reset.cfg.sampleW = (0x0FFFF9C#28 ||| 0xF000000#28).setWidth p3Reset.cfg.sampleW := by
  decide

/-- The largest and the smallest sample, and the first value past each. -/
theorem witness_AssembledSampleReadsBack :
    p3.legal = true ∧ fitsSigned p3.sampleW 8388607 = true ∧ fitsSigned p3.sampleW (-8388608) = true ∧
    fitsSigned p3.sampleW 8388608 = false ∧ fitsSigned p3.sampleW (-8388609) = false := by decide

theorem witness_HoldIsCopiesOfSample :
    (1 : Int) ≤ 1 ∧ assemble p3 (.sample (-100)) = some [0x10FFFF9C#32] := by decide

theorem witness_StepRunsDecodedCommand :
    (p3Reset.withFetchWord 32 0x10000064).cfg.legal = true ∧
    held (p3Reset.withFetchWord 32 0x10000064) = true ∧
    (p3Reset.withFetchWord 32 0x10000064).clearLeft = 0 ∧
    (p3Reset.withFetchWord 32 0x10000064).pins =
      { rst := false, cmdValid := true, cmd := 0x10000064#32 } :: [] := by decide

theorem witness_RstWinsOverCommand : ∃ (s : State) (c : PinCycle),
    s.cfg.legal = true ∧ s.pins = c :: [] ∧ c.rst = true ∧ c.cmdValid = true :=
  ⟨{ p3End with pins := [{ rst := true, cmdValid := true, cmd := 0x10000064 }] }, _, by decide, rfl, rfl, rfl⟩

/-- Nothing driven; no command offered; a command offered while `cmd_ready` is 0. -/
theorem witness_IdleCycleOnlyLowersRespValid :
    (p3End.cfg.legal = true ∧ p3End.pins = []) ∧
    (∃ (s : State) (c : PinCycle) (rest : List PinCycle), s.cfg.legal = true ∧ s.pins = c :: rest ∧
      c.rst = false ∧ c.cmdValid = false) ∧
    (∃ (s : State) (c : PinCycle) (rest : List PinCycle), s.cfg.legal = true ∧ s.pins = c :: rest ∧
      c.rst = false ∧ c.cmdValid = true ∧ s.clearLeft ≠ 0) :=
  ⟨⟨by decide, rfl⟩,
    ⟨{ p3End with pins := [{ rst := false, cmdValid := false, cmd := 0 }] }, _, _, by decide, rfl, rfl, rfl⟩,
    ⟨{ p3End with pins := [{ rst := false, cmdValid := true, cmd := 0 }], clearLeft := 1 }, _, _, by decide, rfl,
      rfl, rfl, by decide⟩⟩

/-- `RECT` one below and one above its range; `widx = W`. -/
theorem witness_StatesTheSpecExcludesStop :
    ¬ (1 ≤ 0 ∧ 0 ≤ 43689) ∧ ¬ (1 ≤ 43690 ∧ 43690 ≤ 43689) ∧
    (let s : State := { p3Reset with
      edge := { p3Reset.edge with widx := 1 }
      pins := [{ rst := false, cmdValid := true, cmd := 0 }] }
     s.cfg.legal = true ∧ held s = false ∧ s.clearLeft = 0 ∧
     s.pins = [{ rst := false, cmdValid := true, cmd := 0#32 }]) := by decide

theorem witness_ParametersNeverChange :
    (∃ t, step (p3Reset.withFetchWord 32 0x20000000) = .next t) ∧ ∃ t, exec .reset p3End = .next t :=
  ⟨exists_next (by decide), exists_next (by decide)⟩

theorem witness_ResetHoldsTheTable : lowest.legal = true ∧ highest.legal = true ∧ 255 < highest.w := by decide

theorem witness_ResetSatisfiesInvariants : lowest.legal = true ∧ highest.legal = true := by decide

/-- A step that stores a byte, from a state with the invariants. -/
theorem witness_StepKeepsInvariants :
    StateInv (p3Before.withFetchWord 32 0x10FFFF9C) ∧
    ∃ t, step (p3Before.withFetchWord 32 0x10FFFF9C) = .next t :=
  ⟨{ legal := by decide, inRange := by decide, recordWf := by decide, sumOfWindow := by decide
     signOfSum := by decide, leaderEmpty := fun _ => rfl, streamRoom := fun _ => by decide
     endFull := nofun, unfilledZero := fun _ _ _ => rfl }, exists_next (by decide)⟩

theorem witness_StepNeverStops : StateInv p3End := inv_p3End

theorem witness_EveryCommandResponds : StateInv p3End := inv_p3End

/-- A session with a `RESET` in it and one without a `SAMPLE`. -/
theorem witness_RunCountZeroMeansNoSample :
    p3.legal = true ∧ (∃ t, runCommands [.sample 100, .reset, .nop] p3Reset = .next t) ∧
    ∃ t, runCommands [.nop, .sample 100] p3Reset = .next t :=
  ⟨by decide, exists_next (by decide), exists_next (by decide)⟩

theorem witness_NopOnlyResponds : 0x0FFFFFFF#32 &&& 0xF0000000#32 = 0x00000000#32 := by decide

/-- A word of the row, and an edge with `rst` that gives a next state. -/
theorem witness_ResetStartsNewSession :
    0x2FFFFFFF#32 &&& 0xF0000000#32 = 0x20000000#32 ∧
    ∃ (s t : State) (c : PinCycle), s.pins = c :: [] ∧ c.rst = true ∧ step s = .next t :=
  ⟨by decide, { p3End with pins := [{ rst := true, cmdValid := false, cmd := 0 }] }, State.resetWith p3, _,
    rfl, rfl, rfl⟩

theorem witness_StatusReadback : 0x3FFFFFFF#32 &&& 0xF0000000#32 = 0x30000000#32 := by decide

theorem witness_ValidReadback : 0x4FFFFFFF#32 &&& 0xF0000000#32 = 0x40000000#32 := by decide

theorem witness_PayloadReadback :
    0x5FFFFFFF#32 &&& 0xF0000000#32 = 0x50000000#32 ∧ 1919 < 1920 ∧ 1920 ≤ 1920 := by decide

theorem witness_PayloadReadsExtract : 0 < 1920 ∧ 1919 < 1920 := by decide

theorem witness_RecordReadback :
    0x6FFFFFFF#32 &&& 0xF0000000#32 = 0x60000000#32 ∧ 1986 < 1987 ∧ 1987 ≤ 1987 := by decide

/-- `SUM_W` is 24 here. -/
theorem witness_DebugReadback :
    0x7FFFFFFF#32 &&& 0xF0000000#32 = 0x70000000#32 ∧ fitsSigned (sumW p3End.cfg) p3End.edge.sum = true ∧
    sumW p3End.cfg ≤ 32 ∧ 9 ≤ 9 ∧ 9 ≤ 15 := by decide

/-- The last entry of the window, and the first index past it. -/
theorem witness_WindowReadback :
    0x8FFFFFFF#32 &&& 0xF0000000#32 = 0x80000000#32 ∧
    p3End.edge.win.length = p3End.cfg.w ∧ p3End.edge.win[0]? = some (-100) ∧ 0 < p3End.cfg.w ∧
    p3End.cfg.w ≤ 1 := by decide

theorem witness_ConfigReadback :
    0x9FFFFFFF#32 &&& 0xF0000000#32 = 0x90000000#32 ∧ 7 ≤ 7 ∧ 7 ≤ 15 := by decide

theorem witness_ReservedOpcodesReturnError :
    10 ≤ (opOf 0xA0000000#32).toNat ∧ 10 ≤ (opOf 0xFFFFFFFF#32).toNat ∧
    Instr.reservedF ∈ [Instr.reservedA, .reservedB, .reservedC, .reservedD, .reservedE, .reservedF] := by
  decide

theorem witness_OnlySampleAndResetWriteState :
    (∀ a, Instr.readRecord 1987 ≠ .sample a) ∧ Instr.readRecord 1987 ≠ .reset ∧
    ∃ t, exec (.readRecord 1987) p3End = .next t :=
  ⟨fun a h => (by cases h), by decide, exists_next (by decide)⟩

theorem witness_ReadsAreIdempotent :
    (∀ a, Instr.readWindow 0 ≠ .sample a) ∧ Instr.readWindow 0 ≠ .reset ∧
    ∃ t, exec (.readWindow 0) p3End = .next t :=
  ⟨fun a h => (by cases h), by decide, exists_next (by decide)⟩

/-- An error and a success for each clause, on both sides of each boundary. -/
theorem witness_ErrorResponsesAreExactlyTheTable :
    (p3End.cfg.legal = true ∧ held p3End = true) ∧
    ((∃ t, exec (.readConfig 7) p3End = .next t ∧ t.resp[31] = true) ∧
      (∀ k, Instr.readConfig 7 ≠ .readWindow k) ∧ ∀ sel, Instr.readConfig 7 ≠ .readDebug sel) ∧
    ((∃ t, exec (.readConfig 6) p3End = .next t ∧ t.resp[31] = false) ∧
      (∀ k, Instr.readConfig 6 ≠ .readWindow k) ∧ ∀ sel, Instr.readConfig 6 ≠ .readDebug sel) ∧
    (∃ t, exec (.readWindow 0) p3End = .next t) ∧ (∃ t, exec (.readWindow 1) p3End = .next t) ∧
    (∃ t, exec (.readDebug 8) p3End = .next t) ∧ ∃ t, exec (.readDebug 9) p3End = .next t :=
  ⟨⟨by decide, by decide⟩,
    ⟨exists_next_with (fun t => t.resp[31]) (by decide), fun _ h => (by cases h), fun _ h => (by cases h)⟩,
    ⟨exists_next_with (fun t => t.resp[31]) (by decide), fun _ h => (by cases h), fun _ h => (by cases h)⟩,
    exists_next (by decide), exists_next (by decide), exists_next (by decide), exists_next (by decide)⟩

/-- HT-2: a second `SAMPLE 100` is no transition. -/
theorem witness_SampleWithoutTransition :
    edgeObserve p3Before.cfg (sampleOperand p3Before.cfg 100) p3Before.edge =
      some ({ p3Before.edge with runCnt := 5 }, none) := by decide

/-- SRC-1 instance B: the first transition of a session has duration 0. -/
theorem witness_SampleIgnoredTransition :
    edgeObserve p3Reset.cfg (sampleOperand p3Reset.cfg 100) p3Reset.edge =
      some ({ win := [100], sum := 100, widx := 0, curSign := .pos, runCnt := 1 }, some 0) ∧
    classify p3Reset.cfg 0 = .ignore := by decide

/-- P3 sample 113's shape: a transition with a bit while the framer holds too few bits. -/
theorem witness_SampleBitWithoutByte :
    let s : State := { p3Before with framer := { freg := 0x7FE, fcnt := 0 } }
    edgeObserve s.cfg (sampleOperand s.cfg 0xFFFF9C) s.edge =
      some ({ win := [-100], sum := -100, widx := 0, curSign := .neg, runCnt := 1 }, some 4) ∧
    classify s.cfg 4 = (if true then .one else .zero) ∧
    framePush true s.framer = ({ freg := 0x7FF, fcnt := 1 }, none) := by decide

/-- P3 sample 169: a byte that is stored. -/
theorem witness_SampleFramedByte :
    edgeObserve p3Before.cfg (sampleOperand p3Before.cfg 0xFFFF9C) p3Before.edge =
      some (p3End.edge, some 4) ∧
    classify p3Before.cfg 4 = (if true then .one else .zero) ∧
    framePush true p3Before.framer = (p3End.framer, some 0x42) ∧
    syncSubmit p3Before.cfg 0x42 p3Before.sync p3Before.asm =
      .ok { sync := p3End.sync, asm := p3End.asm, stored := true } :=
  ⟨by decide, by decide, by decide, rfl⟩

/-- One `SAMPLE` that stores and one that does not. -/
theorem witness_SampleStoresAtWritePointerOnly :
    (StateInv p3Before ∧ ∃ t, exec (.sample 0xFFFF9C) p3Before = .next t ∧ t.resp[26] = true) ∧
    (StateInv p3Before ∧ ∃ t, exec (.sample 100) p3Before = .next t ∧ t.resp[26] = false) :=
  ⟨⟨inv_p3Before, exists_next_with (fun t => t.resp[26]) (by decide)⟩,
    ⟨inv_p3Before, exists_next_with (fun t => t.resp[26]) (by decide)⟩⟩

theorem witness_SessionOnlyMovesForward :
    ∃ s : State, StateInv s ∧ (∃ t, step s = .next t) ∧ portEvent s ≠ .reset ∧
      (∀ w, portEvent s = .command w → decode w ≠ .reset) :=
  ⟨p3Before.withFetchWord 32 0x10FFFF9C, witness_StepKeepsInvariants.1, witness_StepKeepsInvariants.2,
    by decide, fun w h => by cases h; decide⟩

theorem witness_EdgeDetectorRule : p3End.edge.win[p3End.edge.widx]? = some (-100) := by decide

/-- A full window of the smallest sample. -/
theorem witness_SumAlwaysFits :
    lowest.legal = true ∧ [(-2 : Int)].length ≤ lowest.w ∧
    ∀ x ∈ [(-2 : Int)], fitsSigned lowest.sampleW x = true := by decide

/-- The shortest and the longest pulse of +100 after a run of −100. -/
theorem witness_PulseReportsItsLength :
    StateInv p3End ∧ p3End.cfg.w = 1 ∧ 1 ≤ 1 ∧ 65535 ≤ 65535 ∧ sampleOperand p3End.cfg 100 ≠ 0 ∧
    p3End.edge.curSign = signOf (-(sampleOperand p3End.cfg 100)) ∧
    signOf (sampleOperand p3End.cfg 0xFFFF9C) = signOf (-(sampleOperand p3End.cfg 100)) :=
  ⟨inv_p3End, by decide, by decide, by decide, by decide, by decide, by decide⟩

theorem witness_SilenceReportsNothing :
    p3.legal = true ∧ (∀ a ∈ [0x000000#28, 0xF000000#28], sampleOperand p3 a = 0) ∧
    ∃ t, runCommands ([0x000000#28, 0xF000000#28].map Instr.sample) p3Reset = .next t :=
  ⟨by decide, List.forall_mem_cons.2 ⟨by decide, List.forall_mem_singleton.2 (by decide)⟩, exists_next (by decide)⟩

theorem witness_ClassifierTies : lowest.legal = true ∧ highest.legal = true ∧ lowest.rect = 1 := by decide
theorem witness_SaturatedRunIsZero : highest.legal = true := by decide
theorem witness_FloorThresholdsAreExact : 1 ≤ lowest.rect := by decide

/-- FR-2: the last bit of the frame of 0x42, and the bit before it. -/
theorem witness_FramerRule :
    framePush true { freg := 0x508, fcnt := 10 } = ({ freg := 0x684, fcnt := 0 }, some 0x42) ∧
    framePush false { freg := 0x508, fcnt := 10 } = ({ freg := 0x284, fcnt := 11 }, none) := by decide

theorem witness_ElevenBitsFillTheRegister :
    (wireFrame 0x42).length = 11 ∧ (wireFrame 0x42)[10]? = some true := by decide

theorem witness_FramerRecoversTheByteStream : (p3Reset.framer).fcnt.val = 0 := by decide

/-- SB-1 and the last byte of the leader. -/
theorem witness_LeaderByteRule :
    p3.legal = true ∧ (SyncState.mk .seekLeader 1).phase = .seekLeader ∧
    1 ≤ (SyncState.mk .seekLeader 1).rem.toNat ∧ (SyncState.mk .seekLeader 1).rem.toNat = 1 ∧
    1 < (SyncState.mk .seekLeader 2).rem.toNat := by decide

/-- SB-3: no byte and all but one of the leader's bytes; 0x00 is another byte. -/
theorem witness_LeaderTakesItsFullLength :
    lowest.legal = true ∧ 0 < lowest.leadLen ∧ highest.legal = true ∧ 65534 < highest.leadLen ∧
    (0x00 : Byte) ≠ 0xFF := by decide

/-- The byte that fills the record, and the first one. -/
theorem witness_StreamByteRule :
    p3.legal = true ∧ Memory.wf ([] : Memory) = true ∧ (SyncState.mk .inStream 0).phase = .inStream ∧
    (AsmState.mk [] 1986).wrPtr.val < 1987 ∧ (AsmState.mk [] 1986).wrPtr.val + 1 = 1987 ∧
    (AsmState.mk [] 0).wrPtr.val < 1987 ∧ (AsmState.mk [] 0).wrPtr.val + 1 < 1987 := by decide

/-- No byte, and a full record with a byte after it. -/
theorem witness_RecordHoldsBytesInArrivalOrder :
    p3.legal = true ∧ ([] : List Byte).length ≤ 1987 ∧ (List.replicate 1987 (0x11 : Byte)).length ≤ 1987 ∧
    (List.replicate 1987 (0x11 : Byte)).length = 1987 :=
  ⟨by decide, by decide, by rw [List.length_replicate], List.length_replicate⟩

theorem witness_EndByteRule :
    p3.legal = true ∧ pa2State.sync.phase = .seekEnd ∧ 0 < pa2State.sync.rem.toNat := by decide

theorem witness_EndBlockStaysSatisfied :
    (SyncState.mk .seekEnd 0).phase = .seekEnd ∧ (SyncState.mk .seekEnd 0).rem = 0 := by decide

/-- P3's parameters, samples +100 and −100, a record of 1987 equal bytes. -/
theorem witness_TransmissionFillsTheRecord :
    p3.legal = true ∧ p3.w = 1 ∧ 0 < sampleOperand p3 100 ∧ sampleOperand p3 0xFFFF9C < 0 ∧
    (List.replicate 1987 (0x11 : Byte)).length = 1987 :=
  ⟨by decide, by decide, by decide, by decide, List.length_replicate⟩

/-- PA-2, the last data byte of the last message. -/
theorem witness_OneByteChangeFlipsValid :
    Memory.wf [(0, 0x42), (1, 0x03)] = true ∧ validFn [(0, 0x42), (1, 0x03)] = true ∧ 63 < 64 ∧ 29 < 30 ∧
    (0x01 : Byte) ≠ Memory.read [(0, 0x42), (1, 0x03)] (2 + 31 * 63 + 29) :=
  ⟨by decide, test_valid, by decide, by decide, by decide⟩

theorem witness_PayloadIndexMap : 1919 < 1920 ∧ 0 < 1 := by decide

end Sys2Proof.Tests
end

section
/-! The reset values of the state elements (R37). -/

namespace Sys2Proof.Machine

/-- The ranges of R6, as inequalities. -/
theorem Params.legal_iff {p : Params} :
    p.legal = true ↔
      (1 ≤ p.rect ∧ p.rect ≤ 43689) ∧ (1 ≤ p.w ∧ p.w ≤ 256) ∧
      (1 ≤ p.leadLen ∧ p.leadLen ≤ 65535) ∧ (1 ≤ p.endLen ∧ p.endLen ≤ 65535) ∧
      (2 ≤ p.sampleW ∧ p.sampleW ≤ 28) := by
  simp only [Params.legal, Bool.and_eq_true, decide_eq_true_eq, and_assoc]

/-- A legal `LEAD_LEN` fits the 16 bits of `rem` (R30), so reset loads it exactly. -/
theorem resetWith_rem_toNat {p : Params} (hp : p.legal = true) :
    (State.resetWith p).sync.rem.toNat = p.leadLen := by
  obtain ⟨-, -, ⟨-, hlead⟩, -⟩ := Params.legal_iff.1 hp
  rw [resetWith_sync, BitVec.toNat_ofNat]
  exact Nat.mod_eq_of_lt (by omega)

theorem resetWith_win_getElem? (p : Params) {k : Nat} (hk : k < p.w) :
    (State.resetWith p).edge.win[k]? = some 0 :=
  List.getElem?_replicate_of_lt hk

/-- The empty record reads 0x00 at every offset that exists (R31, R50). -/
theorem memRead_nil (o : Nat) : memRead [] o = if o < 1987 then some 0 else none := rfl

/-- Settles O12: the window, `rem` and the record are read by their lemmas, every other element is its
reset value by definition. -/
theorem resetHoldsTheTable : Obligations.ResetHoldsTheTable := by
  intro p hp s
  have hlength : s.edge.win.length = p.w := List.length_replicate
  have hentry : ∀ k, k < p.w → s.edge.win[k]? = some 0 := fun _ => resetWith_win_getElem? p
  have hrem : s.sync.rem.toNat = p.leadLen := resetWith_rem_toNat hp
  have hrecord : ∀ o, memRead s.asm.record o = if o < 1987 then some 0 else none := memRead_nil
  exact ⟨hlength, hentry, rfl, rfl, rfl, rfl, rfl, rfl, rfl, hrem, hrecord, rfl, rfl, rfl⟩

end Sys2Proof.Machine
end

section
/-! The row `0x9` of the opcode map (R72, R73) and `READ_CONFIG` (R83, R211). -/

namespace Sys2Proof.Machine

/-- An operand of at most 28 bits is the low bits of the whole word (R71, R72). -/
theorem lowField_argOf {n : Nat} (hn : n ≤ 28) (w : Word) :
    lowField n (argOf w) = (w.extractLsb' 0 n).toNat := by
  unfold lowField argOf
  rw [BitVec.extractLsb'_extractLsb'_of_le (by omega)]

/-- Every word of the row `0x9` is `READ_CONFIG` of its bits 3:0 (R73). -/
theorem decode_of_readConfig_row {w : Word} (h : w &&& rowMask = 0x90000000#32) :
    decode w = .readConfig (w.extractLsb' 0 4).toNat := by
  obtain ⟨h31, h30, h29, h28⟩ := Laws.opcode_bits_of_masked h
  have hrow : decode w = .readConfig (lowField 4 (argOf w)) := by
    unfold decode
    rw [h31, h30, h29, h28]
    rfl
  rw [hrow, lowField_argOf (by omega)]

/-- The selectors from 7 are reserved (R83). -/
theorem configValue_of_seven_le {sel : Nat} (h : 7 ≤ sel) (p : Params) : configValue sel p = none := by
  unfold configValue
  split
  case h_8 => rfl
  all_goals omega

/-- A selector that names a value responds it (R83, R211). -/
theorem exec_readConfig_of_some {sel v : Nat} {s : State} (h : configValue sel s.cfg = some v) :
    exec (.readConfig sel) s = .next { s with resp := BitVec.ofNat 32 v, respValid := true } := by
  change execReadConfig sel s = .next (respond (BitVec.ofNat 32 v) s)
  unfold execReadConfig
  rw [h]

/-- A reserved selector raises `E_SELECT` (R83, R211, R232). -/
theorem exec_readConfig_of_none {sel : Nat} {s : State} (h : configValue sel s.cfg = none) :
    exec (.readConfig sel) s = .next { s with resp := 0x80000003#32, respValid := true } := by
  change execReadConfig sel s = .next (raiseError .select s)
  unfold execReadConfig
  rw [h]

/-- Settles O27: the row's words decode by their opcode bits; each selector of the table has its value by
the definition of `configValue`, and the selectors from 7 have none. -/
theorem configReadback : Obligations.ConfigReadback := by
  refine ⟨fun w => decode_of_readConfig_row, fun s => ?_⟩
  exact ⟨exec_readConfig_of_some rfl, exec_readConfig_of_some rfl, exec_readConfig_of_some rfl,
    exec_readConfig_of_some rfl, exec_readConfig_of_some rfl, exec_readConfig_of_some rfl,
    exec_readConfig_of_some rfl,
    fun sel hsel => exec_readConfig_of_none (configValue_of_seven_le hsel s.cfg)⟩

end Sys2Proof.Machine
end

section
/-! The rule of the Edge Detector (R102 to R106). -/

namespace Sys2Proof.Machine

/-- On a change of sign the new run holds one sample (R105). -/
theorem edgeAfter_runCnt_of_change {p : Params} {x old : Int} {e : EdgeState}
    (h : (edgeAfter p x old e).curSign ≠ e.curSign) : (edgeAfter p x old e).runCnt = 1 :=
  if_neg h

/-- While the sign stays, the run grows by the sample, up to saturation (R106). -/
theorem edgeAfter_runCnt_of_same {p : Params} {x old : Int} {e : EdgeState}
    (h : (edgeAfter p x old e).curSign = e.curSign) :
    (edgeAfter p x old e).runCnt = satInc16 e.runCnt :=
  if_pos h

/-- Settles O38: the detector answers with `edgeAfter`; its sign is decided by the three cases of the new
sum, its report and its run count by whether that sign is the recorded one. -/
theorem edgeDetectorRule : Obligations.EdgeDetectorRule := by
  intro p x old e hentry
  refine ⟨edgeAfter p x old e, _, edgeObserve_of_entry hentry, rfl, rfl, rfl, signOf_pos, ?zero,
    signOf_neg, ?change, ?same⟩
  case zero => exact signOf_eq_zero_iff.2
  case change =>
    intro hchange
    have hrun : (edgeAfter p x old e).runCnt = 1 := edgeAfter_runCnt_of_change hchange
    exact ⟨if_neg hchange, by rw [hrun]; rfl⟩
  case same =>
    intro hsame
    have hrun : (edgeAfter p x old e).runCnt = satInc16 e.runCnt := edgeAfter_runCnt_of_same hsame
    exact ⟨if_pos hsame, by rw [hrun, satInc16_toNat]⟩

end Sys2Proof.Machine
end

section
/-! The bands of the Pulse Classifier and their ties (R120 to R124). -/

namespace Sys2Proof.Machine

theorem classify_of_tHi_lt {p : Params} {d : BitVec 16} (h : tHi p < d.toNat) :
    classify p d = .zero :=
  if_pos h

theorem classify_of_tLo_lt_of_le_tHi {p : Params} {d : BitVec 16} (hlo : tLo p < d.toNat)
    (hhi : d.toNat ≤ tHi p) : classify p d = .one := by
  rw [classify, if_neg (Nat.not_lt.2 hhi), if_pos hlo]

theorem tLo_le_tHi (p : Params) : tLo p ≤ tHi p := by
  unfold tLo tHi
  omega

theorem classify_of_le_tLo {p : Params} {d : BitVec 16} (h : d.toNat ≤ tLo p) :
    classify p d = .ignore := by
  rw [classify, if_neg (Nat.not_lt.2 (h.trans (tLo_le_tHi p))), if_neg (Nat.not_lt.2 h)]

/-- The three bands exclude each other, so `ONE` is exactly the middle one. -/
theorem classify_eq_one_iff {p : Params} {d : BitVec 16} :
    classify p d = .one ↔ tLo p < d.toNat ∧ d.toNat ≤ tHi p := by
  refine ⟨fun h => ⟨?above, ?below⟩, fun ⟨hlo, hhi⟩ => classify_of_tLo_lt_of_le_tHi hlo hhi⟩
  case above =>
    by_contra hle
    rw [classify_of_le_tLo (Nat.not_lt.1 hle)] at h
    cases h
  case below =>
    by_contra hgt
    rw [classify_of_tHi_lt (Nat.not_le.1 hgt)] at h
    cases h

/-- The `ONE` band holds a duration for every legal `RECT`, the least included. -/
theorem tLo_lt_tHi {p : Params} (hp : p.legal = true) : tLo p < tHi p := by
  obtain ⟨⟨hrect, -⟩, -⟩ := Params.legal_iff.1 hp
  unfold tLo tHi
  omega

/-- The largest legal `RECT` is the largest that leaves a 16-bit duration above `T_HI` (R6, R7). -/
theorem tHi_succ_lt {p : Params} (hp : p.legal = true) : tHi p + 1 < 2 ^ 16 := by
  obtain ⟨⟨-, hrect⟩, -⟩ := Params.legal_iff.1 hp
  unfold tHi
  omega

/-- Settles O43: no tie wraps at 16 bits and `T_LO < T_HI`, so each tie lies in the band whose lemma
gives its class; for `RECT = 1` the thresholds are 0 and 1. -/
theorem classifierTies : Obligations.ClassifierTies := by
  intro p hp
  have hband : tLo p < tHi p := tLo_lt_tHi hp
  have hfits : tHi p + 1 < 2 ^ 16 := tHi_succ_lt hp
  have hexact : ∀ n, n ≤ tHi p + 1 → (BitVec.ofNat 16 n).toNat = n := fun n hn =>
    (BitVec.toNat_ofNat n 16).trans (Nat.mod_eq_of_lt (hn.trans_lt hfits))
  refine ⟨classify_of_le_tLo ?lo, classify_eq_one_iff.2 ?loSucc, classify_eq_one_iff.2 ?hi,
    classify_of_tHi_lt ?hiSucc, ?rectOne⟩
  case lo => rw [hexact _ (by omega)]
  case loSucc => rw [hexact _ (by omega)]; omega
  case hi => rw [hexact _ (by omega)]; omega
  case hiSucc => rw [hexact _ le_rfl]; omega
  case rectOne =>
    intro hrect
    have hlo : tLo p = 0 := by rw [tLo, hrect]
    have hhi : tHi p = 1 := by rw [tHi, hrect]
    refine ⟨by rw [hlo, hhi], fun d => ?_⟩
    rw [classify_eq_one_iff, hlo, hhi]
    omega

end Sys2Proof.Machine
end

section
/-! The rule of the Bit-to-Byte Framer and the order of its register (R141 to R146). -/

namespace Sys2Proof.Machine

/-- The pushed bit enters at bit 10 (R142). -/
theorem shiftIn_getLsbD_ten (b : Bool) (r : BitVec 11) : (shiftIn b r).getLsbD 10 = b := by
  rw [shiftIn_getLsbD, if_pos rfl]

/-- Every other bit comes from the place above it (R142). -/
theorem shiftIn_getLsbD_of_lt (b : Bool) (r : BitVec 11) {k : Nat} (hk : k < 10) :
    (shiftIn b r).getLsbD k = r.getLsbD (k + 1) := by
  rw [shiftIn_getLsbD, if_neg hk.ne, decide_eq_true hk, Bool.true_and]

/-- The match condition in the words of R144, each bit one the register has. -/
theorem frameMatch_iff_getElem (r : BitVec 11) :
    frameMatch r = true ↔ r[10] = true ∧ r[9] = true ∧ r[0] = false :=
  frameMatch_iff r

/-- Settles O46: the shift is the same whether or not the push completes a frame, and `framePush_cases`
gives the count and the byte of each case. -/
theorem framerRule : Obligations.FramerRule := by
  intro b f
  refine ⟨(framePush b f).1, (framePush b f).2, rfl, ?enters, fun k hk => ?moves, ?frame, ?noFrame⟩
  case enters => rw [← BitVec.getLsbD_eq_getElem, framePush_freg, shiftIn_getLsbD_ten]
  case moves => rw [framePush_freg, shiftIn_getLsbD_of_lt b f.freg hk]
  case frame =>
    rw [← frameMatch_iff_getElem, framePush_freg]
    intro hcond
    obtain ⟨-, -, hpush⟩ | ⟨hno, -⟩ := framePush_cases b f
    · rw [hpush]
      exact ⟨rfl, rfl⟩
    · exact absurd hcond hno
  case noFrame =>
    rw [← frameMatch_iff_getElem, framePush_freg]
    intro hno
    obtain ⟨hcount, hmatch, -⟩ | ⟨-, hpush⟩ := framePush_cases b f
    · exact absurd ⟨hcount, hmatch⟩ hno
    · rw [hpush]
      exact ⟨rfl, satInc11_val f.fcnt⟩

/-- Bits still in the register after `bits` moved down one place for each bit pushed (R142). -/
theorem pushBits_freg_getLsbD_of_lt (bits : List Bool) (f : FramerState) {k : Nat}
    (hk : k + bits.length < 11) :
    (pushBits bits f).1.freg.getLsbD k = f.freg.getLsbD (k + bits.length) := by
  induction bits generalizing f with
  | nil => rfl
  | cons b bs ih =>
    rw [List.length_cons] at hk ⊢
    calc (pushBits bs (framePush b f).1).1.freg.getLsbD k
        = (framePush b f).1.freg.getLsbD (k + bs.length) := ih _ (by omega)
      _ = f.freg.getLsbD (k + bs.length + 1) := by
          rw [framePush_freg, shiftIn_getLsbD_of_lt b f.freg (by omega)]

/-- After any number of pushes the register holds the last eleven bits in the order pushed: the last
one at bit 10, the one pushed `d` earlier at bit `10 - d` (R142). -/
theorem pushBits_freg_getLsbD_of_pushed (bits : List Bool) (f : FramerState) {j k : Nat} {x : Bool}
    (hx : bits[j]? = some x) (hplace : j + 11 = k + bits.length) :
    (pushBits bits f).1.freg.getLsbD k = x := by
  induction bits generalizing f j with
  | nil => cases hx
  | cons b bs ih =>
    rw [List.length_cons] at hplace
    cases j with
    | zero =>
      obtain rfl : b = x := Option.some.inj hx
      have hten : k + bs.length = 10 := by omega
      calc (pushBits bs (framePush b f).1).1.freg.getLsbD k
          = (framePush b f).1.freg.getLsbD (k + bs.length) :=
            pushBits_freg_getLsbD_of_lt bs _ (by omega)
        _ = b := by rw [hten, framePush_freg, shiftIn_getLsbD_ten]
    | succ j => exact ih (framePush b f).1 hx (by omega)

/-- Settles O47: the first part is the shift of one push; eleven pushes are the case of the register's
order in which the `k`-th bit pushed lies at bit `k`. -/
theorem elevenBitsFillTheRegister : Obligations.ElevenBitsFillTheRegister := by
  refine ⟨fun b f => ⟨?enters, fun k hk => ?moves⟩, fun bits f k x hlen hx => ?order⟩
  case enters => rw [framePush_freg, shiftIn_getLsbD_ten]
  case moves => rw [framePush_freg, shiftIn_getLsbD_of_lt b f.freg hk]
  case order => exact pushBits_freg_getLsbD_of_pushed bits f hx (by rw [hlen])

end Sys2Proof.Machine
end

section
/-! The Block Synchronizer in IN_STREAM and in SEEK_END, one equation per case (R163 to R166). -/

namespace Sys2Proof.Machine

/-- A legal `END_LEN` fits the 16 bits of `rem` (R30), so loading it is exact. -/
theorem endRem_toNat {p : Params} (hp : p.legal = true) : (endRem p).toNat = p.endLen := by
  obtain ⟨-, -, -, ⟨-, hend⟩, -⟩ := Params.legal_iff.1 hp
  rw [endRem, BitVec.toNat_ofNat]
  exact Nat.mod_eq_of_lt (by omega)

/-- In IN_STREAM the byte goes to the assembler, and only the write to the last offset moves the phase
(R163, R164). -/
theorem syncSubmit_of_inStream {p : Params} {y : Byte} {sy : SyncState} {a a' : AsmState}
    (hphase : sy.phase = .inStream) (hwrite : assembleWrite y a = some a') :
    syncSubmit p y sy a = .ok
      { sync := if a.wrPtr.val + 1 = 1987 then { phase := .seekEnd, rem := endRem p } else sy
        asm := a', stored := true } := by
  have hstage : syncSubmit p y sy a = streamByte p y sy a := by rw [syncSubmit, hphase]
  rw [hstage, streamByte, hwrite]
  rfl

/-- In SEEK_END no byte reaches the assembler (R165, R166). -/
theorem syncSubmit_of_seekEnd {sy : SyncState} (hphase : sy.phase = .seekEnd) (p : Params) (y : Byte)
    (a : AsmState) : syncSubmit p y sy a = .ok (endByte p y sy a) := by
  rw [syncSubmit, hphase]

theorem endByte_of_rem_eq_zero {sy : SyncState} (hrem : sy.rem = 0#16) (p : Params) (y : Byte)
    (a : AsmState) : endByte p y sy a = { sync := sy, asm := a, stored := false } :=
  if_pos hrem

theorem endByte_allOnes {sy : SyncState} (hrem : sy.rem ≠ 0#16) (p : Params) (a : AsmState) :
    endByte p 0xFF#8 sy a = { sync := { sy with rem := sy.rem - 1#16 }, asm := a, stored := false } :=
  (if_neg hrem).trans (if_pos rfl)

theorem endByte_of_ne_allOnes {y : Byte} {sy : SyncState} (hrem : sy.rem ≠ 0#16) (hy : y ≠ 0xFF#8)
    (p : Params) (a : AsmState) :
    endByte p y sy a = { sync := { sy with rem := endRem p }, asm := a, stored := false } :=
  (if_neg hrem).trans (if_neg hy)

/-- A byte that the synchronizer takes is followed by the bytes after it. -/
theorem submitBytes_cons_of_ok {p : Params} {y : Byte} {sy : SyncState} {a : AsmState} {r : SyncResult}
    (h : syncSubmit p y sy a = .ok r) (ys : List Byte) :
    submitBytes p (y :: ys) sy a = submitBytes p ys r.sync r.asm := by
  rw [submitBytes, h]

/-- Settles O52: the record has room, so the byte is written and the record's laws say how it reads
afterwards; the phase moves exactly when the write pointer reaches 1987. -/
theorem streamByteRule : Obligations.StreamByteRule := by
  intro p y sy a hp hwf hphase hroom
  obtain ⟨a', hwrite⟩ := assembleWrite_isSome y hroom
  obtain ⟨-, hrecord, hptr⟩ := assembleWrite_eq_some hwrite
  refine ⟨_, syncSubmit_of_inStream hphase hwrite, rfl, hptr, ?stored, fun o ho => ?frame,
    fun hlast => ?fills, fun hmore => if_neg hmore.ne⟩
  case stored => rw [hrecord, Memory.read_write_same hwf]
  case frame => rw [hrecord, Memory.read_write_of_ne ho]
  case fills =>
    rw [if_pos hlast]
    exact ⟨rfl, endRem_toNat hp⟩

/-- Settles O54: `rem` is not 0, so the byte is counted if it is 0xFF and otherwise starts the end block
again. -/
theorem endByteRule : Obligations.EndByteRule := by
  intro p y sy a hp hphase hpos
  have hrem : sy.rem ≠ 0#16 := mt rem_toNat_zero_iff.2 hpos.ne'
  refine ⟨_, syncSubmit_of_seekEnd hphase p y a, ?_⟩
  by_cases hy : y = 0xFF#8
  · subst hy
    rw [endByte_allOnes hrem]
    exact ⟨rfl, rfl, hphase, fun _ => rem_sub_one_toNat hrem, fun hne => absurd rfl hne⟩
  · rw [endByte_of_ne_allOnes hrem hy]
    exact ⟨rfl, rfl, hphase, fun heq => absurd heq hy, fun _ => endRem_toNat hp⟩

/-- Settles O55, by induction on the bytes: the first one changes nothing, so the rest start from the
same satisfied end block. -/
theorem endBlockStaysSatisfied : Obligations.EndBlockStaysSatisfied := by
  intro p ys sy a hphase hrem
  induction ys with
  | nil => rfl
  | cons y ys ih =>
    have hfirst : syncSubmit p y sy a = .ok { sync := sy, asm := a, stored := false } := by
      rw [syncSubmit_of_seekEnd hphase, endByte_of_rem_eq_zero hrem]
    rw [submitBytes_cons_of_ok hfirst, ih]

end Sys2Proof.Machine
end

section
/-! The validity checks and the payload of the record (R182 to R184). -/

namespace Sys2Proof.Machine

/-- A byte is the checksum of message `m` exactly when its number is the sum of the message's data bytes
modulo 256 (R183). -/
theorem eq_chk_iff {b : Byte} {r : Memory} {m : Nat} :
    b = chk r m ↔
      b.toNat = ((List.range 30).map fun j => (Memory.read r (2 + 31 * m + j)).toNat).sum % 256 := by
  rw [← BitVec.toNat_inj, chk, BitVec.toNat_ofNat]
  rfl

/-- The marker, the terminator and the checksum of every message (R182). -/
theorem validFn_iff {r : Memory} :
    validFn r = true ↔
      Memory.read r 0 = Config.marker0 ∧ Memory.read r 1 = Config.marker1 ∧
        Memory.read r 1986 = Config.term ∧
        ∀ m, m < Config.msgCount → Memory.read r (msgOff m Config.msgData) = chk r m := by
  simp only [validFn, Bool.and_eq_true, beq_iff_eq, List.all_eq_true, List.mem_range, and_assoc]

/-- Settles O57: `valid_fn` compares each checksum byte with `chk` as bytes, which is to compare their
numbers modulo 256. -/
theorem validIsTheRecordsChecks : Obligations.ValidIsTheRecordsChecks := by
  intro r
  simp only [validFn_iff, eq_chk_iff]
  rfl

@[simp] theorem extract_length (r : Memory) : (extract r).length = 1920 := by
  rw [extract, List.length_map, List.length_range]
  rfl

/-- Payload byte `i` is the record's byte at `pay_off(i)` (R184). -/
theorem extract_getElem? (r : Memory) {i : Nat} (hi : i < 1920) :
    (extract r)[i]? = some (Memory.read r (payOff i)) := by
  have hindex : i < Config.payloadSize := hi
  rw [extract, List.getElem?_map, List.getElem?_range hindex]
  rfl

end Sys2Proof.Machine
end

section
/-! `READ_PAYLOAD` (R79, R184, R207). -/

namespace Sys2Proof.Machine

/-- The byte is in bits 7:0 of the response (R79, R80). -/
@[simp] theorem flaggedByte_byte (flag : Bool) (b : Byte) : (flaggedByte flag b).extractLsb' 0 8 = b := by
  apply BitVec.eq_of_getLsbD_eq
  intro k hk
  have hword : k < 32 := by omega
  simp [flaggedByte, hk, hword]

/-- The flag is bit 8 of the response (R79, R80). -/
@[simp] theorem flaggedByte_flag (flag : Bool) (b : Byte) : (flaggedByte flag b)[8] = flag := by
  simp [flaggedByte, flagWord]

/-- An index below 1920 is answered with its byte and the valid flag (R207). -/
theorem exec_readPayload_of_lt {i : Nat} (hi : i < 1920) (s : State) :
    exec (.readPayload i) s =
      .next (respond (flaggedByte (validFlag s) (Memory.read s.asm.record (payOff i))) s) := by
  have hread : memRead s.asm.record (payOff i) = some (Memory.read s.asm.record (payOff i)) :=
    memRead_eq_some.2 ⟨payOff_lt hi, rfl⟩
  have hrange : ¬ i ≥ Config.payloadSize := Nat.not_le.2 hi
  change execReadPayload i s = _
  rw [execReadPayload, if_neg hrange, hread]

/-- Settles O23: byte `i` of `extract()` and the byte `READ_PAYLOAD i` responds are both the record's byte
at `pay_off(i)`. -/
theorem payloadReadsExtract : Obligations.PayloadReadsExtract := by
  intro s i hi
  refine ⟨extract_length _, extract_getElem? _ hi, _, exec_readPayload_of_lt hi s, ?byte, ?flag⟩
  case byte => rw [respond_resp, flaggedByte_byte, extract_getElem? _ hi]
  case flag => exact flaggedByte_flag _ _

end Sys2Proof.Machine
end

section
/-! The commands that only read (R185, R213): they write the response alone and do not look at it. -/

namespace Sys2Proof.Machine

/-- Every command but `SAMPLE` and `RESET` that answers changes nothing but the response (R213). -/
theorem exec_eq_respond {i : Instr} {s t : State} (hsample : ∀ a, i ≠ .sample a) (hreset : i ≠ .reset)
    (h : exec i s = .next t) : ∃ v, t = respond v s := by
  cases i with
  | sample a => exact absurd rfl (hsample a)
  | reset => exact absurd rfl hreset
  | readPayload n => obtain ⟨-, rfl⟩ | ⟨-, rfl⟩ := execReadPayload_eq_next h <;> exact ⟨_, rfl⟩
  | readRecord o => obtain ⟨-, rfl⟩ | ⟨-, rfl⟩ := execReadRecord_eq_next h <;> exact ⟨_, rfl⟩
  | readDebug sel => obtain ⟨-, rfl⟩ | ⟨v, -, rfl⟩ := execReadDebug_eq_next h <;> exact ⟨_, rfl⟩
  | readWindow k => obtain ⟨-, rfl⟩ | ⟨x, -, rfl⟩ := execReadWindow_eq_next h <;> exact ⟨_, rfl⟩
  | readConfig sel => obtain ⟨-, rfl⟩ | ⟨v, -, rfl⟩ := execReadConfig_eq_next h <;> exact ⟨_, rfl⟩
  | _ => cases h; exact ⟨_, rfl⟩

/-- An earlier response is invisible to every command but `SAMPLE` and `RESET`: none reads the response,
and each overwrites it. -/
theorem exec_respond {i : Instr} (hsample : ∀ a, i ≠ .sample a) (hreset : i ≠ .reset) (v : Word)
    (s : State) : exec i (respond v s) = exec i s := by
  cases i with
  | sample a => exact absurd rfl (hsample a)
  | reset => exact absurd rfl hreset
  | _ => rfl

/-- Settles O30: the next state is the old one with a response, which the same command does not see. -/
theorem readsAreIdempotent : Obligations.ReadsAreIdempotent := by
  intro i s t hsample hreset h
  obtain ⟨v, rfl⟩ := exec_eq_respond hsample hreset h
  exact ⟨rfl, (exec_respond hsample hreset v s).trans h⟩

end Sys2Proof.Machine
end

section
/-! The rows of the opcode map (R71 to R73): what `decode` takes from a word. -/

namespace Sys2Proof.Machine

/-- The command of a row with the operand fields of the word `w` (R72). -/
def withOperandOf (w : Word) : Instr → Instr
  | .sample _ => .sample (argOf w)
  | .readPayload _ => .readPayload (w.extractLsb' 0 11).toNat
  | .readRecord _ => .readRecord (w.extractLsb' 0 11).toNat
  | .readDebug _ => .readDebug (w.extractLsb' 0 4).toNat
  | .readWindow _ => .readWindow (w.extractLsb' 0 8).toNat
  | .readConfig _ => .readConfig (w.extractLsb' 0 4).toNat
  | i => i

/-- A word is the command of its row, which its masked bits give, with the word's own operand (R73). -/
theorem decode_of_row {w m : Word} (h : w &&& rowMask = m) : decode w = withOperandOf w (decode m) := by
  obtain ⟨h31, h30, h29, h28⟩ := Laws.opcode_bits_of_masked h
  unfold decode
  rw [h31, h30, h29, h28, lowField_argOf (by omega), lowField_argOf (by omega), lowField_argOf (by omega)]
  generalize m[31] = b31, m[30] = b30, m[29] = b29, m[28] = b28
  split <;> rfl

/-- The opcode field is the four bits `decode` splits on (R71). -/
theorem opOf_eq_of_bits {w : Word} {op : BitVec 4} (h31 : w[31] = op[3]) (h30 : w[30] = op[2])
    (h29 : w[29] = op[1]) (h28 : w[28] = op[0]) : opOf w = op := by
  apply BitVec.eq_of_getLsbD_eq
  intro k hk
  unfold opOf
  interval_cases k <;> simpa

/-- A decoded command has the opcode of its word (R71, R73). -/
theorem opcode_decode (w : Word) : opcode (decode w) = opOf w := by
  unfold decode
  split <;> next h31 h30 h29 h28 =>
    simp only [opcode]
    exact (opOf_eq_of_bits h31 h30 h29 h28).symm

end Sys2Proof.Machine
end

section
/-! `NOP` (R201) and the reserved opcodes (R74, R212). -/

namespace Sys2Proof.Machine

/-- Settles O18: no word of the row carries an operand, and `execNop` writes the response alone. -/
theorem nopOnlyResponds : Obligations.NopOnlyResponds :=
  ⟨fun _ h => decode_of_row h, fun _ => rfl⟩

/-- The opcodes from 0xA are those of the six reserved commands (R73). -/
theorem reserved_of_ten_le_opcode {i : Instr} (h : 10 ≤ (opcode i).toNat) :
    i ∈ [Instr.reservedA, .reservedB, .reservedC, .reservedD, .reservedE, .reservedF] := by
  cases i with
  | reservedA | reservedB | reservedC | reservedD | reservedE | reservedF => decide
  | _ => simp [opcode] at h

/-- Each reserved command raises `E_OPCODE` (R212, R231). -/
theorem exec_reserved {i : Instr} (s : State)
    (h : i ∈ [Instr.reservedA, .reservedB, .reservedC, .reservedD, .reservedE, .reservedF]) :
    exec i s = .next { s with resp := 0x80000001#32, respValid := true } := by
  simp only [List.mem_cons, List.not_mem_nil, or_false] at h
  obtain rfl | rfl | rfl | rfl | rfl | rfl := h <;> rfl

/-- Settles O28: a word with a reserved opcode decodes to one of the six commands, since decoding keeps the
opcode. -/
theorem reservedOpcodesReturnError : Obligations.ReservedOpcodesReturnError := by
  refine ⟨fun w s hop => ?_, fun i s hi => exec_reserved s hi⟩
  rw [← opcode_decode] at hop
  exact exec_reserved s (reserved_of_ten_le_opcode hop)

end Sys2Proof.Machine
end

section
/-! `READ_STATUS` (R77, R205) and `READ_VALID` (R78, R206). -/

namespace Sys2Proof.Machine

/-- A flag is bit 0 of its word. -/
@[simp] theorem flagWord_getLsbD (b : Bool) (k : Nat) : (flagWord b).getLsbD k = (decide (k = 0) && b) := by
  unfold flagWord
  cases k <;> simp

theorem flagWord_eq_ite (b : Bool) : flagWord b = if b then 1 else 0 := by
  cases b <;> rfl

@[simp] theorem flagWord_getElem (b : Bool) {k : Nat} (hk : k < 32) :
    (flagWord b)[k] = (decide (k = 0) && b) := by
  rw [← BitVec.getLsbD_eq_getElem, flagWord_getLsbD]

/-- The status word, bit by bit: each field of R77 at its place. -/
theorem statusWord_getLsbD (s : State) {k : Nat} (hk : k < 32) :
    (statusWord s).getLsbD k =
      if k < 2 then (phaseCode s.sync.phase).getLsbD k
      else if k = 2 then endDone s
      else if k = 3 then recordFull s
      else if k = 4 then validFlag s
      else if k = 5 then armed s
      else if k < 8 then (signCode s.edge.curSign).getLsbD (k - 6)
      else (BitVec.ofNat 32 s.asm.wrPtr.val).getLsbD (k - 8) := by
  unfold statusWord
  interval_cases k <;> simp

/-- From bit 8 on the status word is `wr_ptr` (R77). -/
theorem statusWord_getLsbD_of_eight_le (s : State) {k : Nat} (hlo : 8 ≤ k) (hk : k < 32) :
    (statusWord s).getLsbD k = s.asm.wrPtr.val.testBit (k - 8) := by
  rw [statusWord_getLsbD s hk, if_neg (by omega), if_neg (by omega), if_neg (by omega),
    if_neg (by omega), if_neg (by omega), if_neg (by omega), BitVec.getLsbD_ofNat,
    decide_eq_true (by omega), Bool.true_and]

theorem statusWord_phase (s : State) : (statusWord s).extractLsb' 0 2 = phaseCode s.sync.phase := by
  apply BitVec.eq_of_getLsbD_eq
  intro k hk
  rw [BitVec.getLsbD_extractLsb', statusWord_getLsbD s (by omega), Nat.zero_add, if_pos hk,
    decide_eq_true hk, Bool.true_and]

theorem statusWord_sign (s : State) : (statusWord s).extractLsb' 6 2 = signCode s.edge.curSign := by
  apply BitVec.eq_of_getLsbD_eq
  intro k hk
  rw [BitVec.getLsbD_extractLsb', statusWord_getLsbD s (by omega)]
  interval_cases k <;> rfl

/-- The 11 bits 18:8 of the status word hold every `wr_ptr` exactly (R32, R77). -/
theorem statusWord_wrPtr (s : State) : ((statusWord s).extractLsb' 8 11).toNat = s.asm.wrPtr.val := by
  have hfield : (statusWord s).extractLsb' 8 11 = BitVec.ofNat 11 s.asm.wrPtr.val := by
    apply BitVec.eq_of_getLsbD_eq
    intro k hk
    rw [BitVec.getLsbD_extractLsb', statusWord_getLsbD_of_eight_le s (by omega) (by omega),
      Nat.add_sub_cancel_left, BitVec.getLsbD_ofNat]
  rw [hfield, BitVec.toNat_ofNat]
  exact Nat.mod_eq_of_lt (by omega)

/-- Bits 31:19 of the status word are 0, since `wr_ptr` fits its 11 bits (R77). -/
theorem statusWord_high (s : State) : (statusWord s).extractLsb' 19 13 = 0 := by
  apply BitVec.eq_of_getLsbD_eq
  intro k hk
  have hfits : s.asm.wrPtr.val < 2 ^ (19 + k - 8) :=
    calc s.asm.wrPtr.val < 2 ^ 11 := by omega
      _ ≤ 2 ^ (19 + k - 8) := Nat.pow_le_pow_right (by omega) (by omega)
  rw [BitVec.getLsbD_extractLsb', statusWord_getLsbD_of_eight_le s (by omega) (by omega),
    Nat.testBit_lt_two_pow hfits, Bool.and_false]
  exact BitVec.getLsbD_zero.symm

/-- `end_done` as a condition (R34). -/
theorem endDone_eq_decide (s : State) : endDone s = decide (s.sync.phase = .seekEnd ∧ s.sync.rem = 0) :=
  (Bool.decide_and _ _).symm

/-- Settles O20: `statusWord_getLsbD` gives the four flags, which are their conditions by definition, and
the lemmas about the wider fields the rest. -/
theorem statusReadback : Obligations.StatusReadback := by
  refine ⟨fun _ h => decode_of_row h, fun s => ⟨statusWord s, rfl, statusWord_phase s, ?endDone, ?full,
    ?valid, ?armed, statusWord_sign s, statusWord_wrPtr s, statusWord_high s⟩⟩
  case endDone => exact (statusWord_getLsbD s (k := 2) (by omega)).trans (endDone_eq_decide s)
  case full => exact statusWord_getLsbD s (k := 3) (by omega)
  case valid => exact statusWord_getLsbD s (k := 4) (by omega)
  case armed => exact statusWord_getLsbD s (k := 5) (by omega)

/-- Settles O21: the word of the flag `valid` is 1 or 0. -/
theorem validReadback : Obligations.ValidReadback := by
  refine ⟨fun _ h => decode_of_row h, fun s => ?_⟩
  rw [← flagWord_eq_ite]
  rfl

end Sys2Proof.Machine
end

section
/-! `READ_PAYLOAD` (R79, R207) and `READ_RECORD` (R80, R208): the responses as numbers, and the ranges. -/

namespace Sys2Proof.Machine

/-- A byte is below bit 8, so the flag adds 256 to it (R79, R80). -/
theorem flaggedByte_eq_ofNat (flag : Bool) (b : Byte) :
    flaggedByte flag b = BitVec.ofNat 32 (256 * (if flag then 1 else 0) + b.toNat) := by
  have hor : 256 + b.toNat = 256 ||| b.toNat := Nat.shiftLeft_add_eq_or_of_lt b.isLt 1
  apply BitVec.eq_of_toNat_eq
  cases flag with
  | false => simp [flaggedByte, flagWord_eq_ite]
  | true => simp [flaggedByte, flagWord_eq_ite, hor]

theorem exec_readPayload_of_le {i : Nat} (hi : 1920 ≤ i) (s : State) :
    exec (.readPayload i) s = .next (raiseError .range s) :=
  if_pos hi

/-- Settles O22: an index in range is answered with its byte and the valid flag, any other with
`E_RANGE`. -/
theorem payloadReadback : Obligations.PayloadReadback := by
  refine ⟨fun _ h => decode_of_row h, fun s i => ⟨fun hi => ?inside, exec_readPayload_of_le (s := s)⟩⟩
  case inside =>
    rw [exec_readPayload_of_lt hi, flaggedByte_eq_ofNat]
    rfl

theorem exec_readRecord_of_lt {o : Nat} (ho : o < 1987) (s : State) :
    exec (.readRecord o) s = .next
      (respond (flaggedByte (decide (o < s.asm.wrPtr.val)) (Memory.read s.asm.record o)) s) := by
  have hread : memRead s.asm.record o = some (Memory.read s.asm.record o) :=
    memRead_eq_some.2 ⟨ho, rfl⟩
  have hrange : ¬ o ≥ Config.recSize := Nat.not_le.2 ho
  change execReadRecord o s = _
  rw [execReadRecord, if_neg hrange, hread]

theorem exec_readRecord_of_le {o : Nat} (ho : 1987 ≤ o) (s : State) :
    exec (.readRecord o) s = .next (raiseError .range s) :=
  if_pos ho

/-- Settles O24: an offset of the record is answered with its byte and whether it is filled, any other
with `E_RANGE`. -/
theorem recordReadback : Obligations.RecordReadback := by
  refine ⟨fun _ h => decode_of_row h, fun s o => ⟨fun ho => ?inside, exec_readRecord_of_le (s := s)⟩⟩
  case inside =>
    rw [exec_readRecord_of_lt ho, flaggedByte_eq_ofNat]
    simp only [decide_eq_true_eq]
    rfl

end Sys2Proof.Machine
end

section
/-! `READ_DEBUG` (R81, R209). -/

namespace Sys2Proof.Machine

/-- A selector that names a register responds it (R209). -/
theorem exec_readDebug_of_some {sel : Nat} {v : Word} {s : State} (h : debugWord sel s = some v) :
    exec (.readDebug sel) s = .next { s with resp := v, respValid := true } := by
  change execReadDebug sel s = .next (respond v s)
  rw [execReadDebug, h]

/-- A reserved selector raises `E_SELECT` (R209, R232). -/
theorem exec_readDebug_of_none {sel : Nat} {s : State} (h : debugWord sel s = none) :
    exec (.readDebug sel) s = .next { s with resp := 0x80000003#32, respValid := true } := by
  change execReadDebug sel s = .next (raiseError .select s)
  rw [execReadDebug, h]

/-- The selectors from 9 are reserved (R81). -/
theorem debugWord_of_nine_le {sel : Nat} (h : 9 ≤ sel) (s : State) : debugWord sel s = none := by
  unfold debugWord
  split
  case h_10 => rfl
  all_goals omega

/-- A 64-bit value is its two halves put together. -/
theorem halves_or (v : BitVec 64) :
    ((v.extractLsb' 32 32).setWidth 64 <<< 32) ||| (v.extractLsb' 0 32).setWidth 64 = v := by
  apply BitVec.eq_of_getLsbD_eq
  intro k hk
  rcases Nat.lt_or_ge k 32 with hlow | hhigh
  · simp [hlow, hk]
  · have hplace : 32 + (k - 32) = k := by omega
    have hfield : k - 32 < 32 := by omega
    simp [hk, Nat.not_lt.2 hhigh, hplace, hfield]

/-- A value of at most 32 bits has no bits of its own in the upper half of its sign extension to 64 bits
(R81). -/
theorem high_half_of_fits {n : Nat} {v : Int} (hv : fitsSigned n v = true) (hn : n ≤ 32) :
    (BitVec.ofInt 64 v).extractLsb' 32 32 = 0#32 ∨
      (BitVec.ofInt 64 v).extractLsb' 32 32 = 0xFFFFFFFF#32 := by
  obtain ⟨hlo, hhi⟩ := fitsSigned_iff.1 hv
  have hpow : 2 ^ (n - 1) ≤ 2 ^ 31 := Nat.pow_le_pow_right (by omega) (by omega)
  have hhigh : ((BitVec.ofInt 64 v).extractLsb' 32 32).toNat =
      (v % 2 ^ 64).toNat / 2 ^ 32 % 2 ^ 32 := by
    rw [BitVec.extractLsb'_toNat, BitVec.toNat_ofInt, Nat.shiftRight_eq_div_pow]
    rfl
  rcases lt_or_ge v 0 with hneg | hpos
  · exact .inr (BitVec.eq_of_toNat_eq (by rw [hhigh, BitVec.toNat_ofNat]; omega))
  · exact .inl (BitVec.eq_of_toNat_eq (by rw [hhigh, BitVec.toNat_ofNat]; omega))

/-- Settles O25: each selector of the table has its word by the definition of `debugWord`, the selectors
from 9 have none, and 5 and 6 answer the two halves of one 64-bit value. -/
theorem debugReadback : Obligations.DebugReadback := by
  refine ⟨fun _ h => decode_of_row h, fun s => ?_⟩
  refine ⟨exec_readDebug_of_some rfl, exec_readDebug_of_some rfl, exec_readDebug_of_some rfl,
    exec_readDebug_of_some rfl, exec_readDebug_of_some rfl,
    ⟨_, _, halves_or (sum64 s.edge), high_half_of_fits, exec_readDebug_of_some rfl,
      exec_readDebug_of_some rfl⟩, ?sign, exec_readDebug_of_some rfl,
    fun sel hsel => exec_readDebug_of_none (debugWord_of_nine_le hsel s)⟩
  case sign =>
    have hword : debugWord 7 s = some ((signCode s.edge.curSign).signExtend 32) := rfl
    rw [exec_readDebug_of_some hword]
    cases s.edge.curSign <;> rfl

end Sys2Proof.Machine
end

section
/-! `READ_WINDOW` (R82, R210). -/

namespace Sys2Proof.Machine

theorem exec_readWindow_of_entry {k : Nat} {x : Int} {s : State} (hk : k < s.cfg.w)
    (hx : s.edge.win[k]? = some x) :
    exec (.readWindow k) s = .next (respond (BitVec.ofInt 32 x) s) := by
  change execReadWindow k s = _
  rw [execReadWindow, if_neg (Nat.not_le.2 hk), hx]

theorem exec_readWindow_of_le {k : Nat} {s : State} (hk : s.cfg.w ≤ k) :
    exec (.readWindow k) s = .next (raiseError .range s) :=
  if_pos hk

/-- Settles O26: with `W` entries in the window, the indices below `W` are exactly those that have an
entry. -/
theorem windowReadback : Obligations.WindowReadback := by
  refine ⟨fun _ h => decode_of_row h, fun s k hlength => ⟨fun x hx => ?entry, fun hk => ?inside,
    exec_readWindow_of_le⟩⟩
  case entry =>
    obtain ⟨hk, -⟩ := List.getElem?_eq_some_iff.1 hx
    exact exec_readWindow_of_entry (hlength ▸ hk) hx
  case inside => exact ⟨_, List.getElem?_eq_getElem (hlength.symm ▸ hk)⟩

end Sys2Proof.Machine
end

section
/-! The construction-time parameters (R6, R252): a sample through the stages, a command and an edge each
leave them as they were built. -/

namespace Sys2Proof.Machine

/-- However far a sample gets, the stages write stage elements only (R202). -/
theorem sampleStages_cfg {x : Int} {s t : State} {ev : SampleEvent} (h : sampleStages x s = .ok (t, ev)) :
    t.cfg = s.cfg := by
  obtain ⟨e, tr, -, ⟨-, rfl, -⟩ | ⟨d, -, -, rfl, -⟩ | ⟨d, b, f, -, -, -, rfl, -⟩ |
    ⟨d, b, f, y, r, -, -, -, -, rfl, -⟩⟩ := sampleStages_eq_ok h <;> rfl

/-- A command that answers leaves the parameters as they are, `RESET` included (R252). -/
theorem exec_cfg {i : Instr} {s t : State} (h : exec i s = .next t) : t.cfg = s.cfg := by
  cases i with
  | sample arg =>
    obtain ⟨u, ev, hstages, rfl⟩ := execSample_eq_next h
    exact (respond_cfg _ u).trans (sampleStages_cfg hstages)
  | reset => cases h; simp
  | _ =>
    obtain ⟨v, rfl⟩ := exec_eq_respond (by simp) (by simp) h
    exact respond_cfg v s

/-- An edge that answers leaves the parameters as they are, under `rst` too (R252). -/
theorem step_cfg {s t : State} (h : step s = .next t) : t.cfg = s.cfg := by
  obtain ⟨-, ⟨-, rfl⟩ | ⟨-, rfl⟩ | ⟨w, -, -, hexec⟩⟩ := step_eq_next h
  case inl | inr.inl => simp
  case inr.inr => exact (exec_cfg hexec).trans (passEdge_cfg s)

/-- Settles O11: every next state of an edge is a reset, an idle cycle or an executed command, and each
of them keeps the parameters. -/
theorem parametersNeverChange : Obligations.ParametersNeverChange :=
  ⟨fun _ _ => step_cfg, fun _ _ _ => exec_cfg⟩

end Sys2Proof.Machine
end

section
/-! The encoding (R71 to R73, R87, R88): the fields of an encoded word, and the rows that words decode to. -/

namespace Sys2Proof.Machine

/-- The argument bits of an encoded word are those of the command's argument (R71). -/
theorem encode_field (i : Instr) {n : Nat} (hn : n ≤ 28) :
    (encode i).extractLsb' 0 n = (argument i).setWidth n := by
  apply BitVec.eq_of_getLsbD_eq
  intro k hk
  have hword : k < 32 := by omega
  have hargument : k < 28 := by omega
  simp [encode, hk, hword, hargument]

/-- The whole argument of an encoded word (R71). -/
theorem argOf_encode (i : Instr) : argOf (encode i) = argument i :=
  (encode_field i le_rfl).trans (BitVec.setWidth_eq _)

/-- An operand that fits a field of at most 28 bits is read back from the word (R72). -/
theorem encode_operand (i : Instr) {n v : Nat} (harg : argument i = BitVec.ofNat 28 v) (hn : n ≤ 28)
    (hv : v < 2 ^ n) : ((encode i).extractLsb' 0 n).toNat = v := by
  have hwide : v < 2 ^ 28 := hv.trans_le (Nat.pow_le_pow_right (by omega) hn)
  rw [encode_field i hn, harg, BitVec.toNat_setWidth, BitVec.toNat_ofNat, Nat.mod_eq_of_lt hwide,
    Nat.mod_eq_of_lt hv]

/-- The match value of a row is its opcode in bits 31:28 (R73). -/
theorem rowMatch_eq_opcode (i : Instr) : rowMatch i = (opcode i).setWidth 32 <<< 28 := by
  cases i <;> simp [rowMatch, opcode]

/-- The word of a command matches the command's row of the opcode map (R73). -/
theorem encode_and_rowMask (i : Instr) : encode i &&& rowMask = rowMatch i := by
  have hopcode : encode i &&& rowMask = (opcode i).setWidth 32 <<< 28 :=
    Laws.word_and_rowMask (opcode i) (argument i)
  rw [hopcode, rowMatch_eq_opcode]

/-- The match value of a row is a word of that row (R73). -/
theorem withOperandOf_decode_rowMatch (w : Word) (i : Instr) :
    withOperandOf w (decode (rowMatch i)) = withOperandOf w i := by
  cases i <;> simp [rowMatch, decode, withOperandOf]

/-- Settles O1: the word's masked bits select the command's own row, and each row's operand field holds the
operand. -/
theorem decodeInvertsEncode : Obligations.DecodeInvertsEncode := by
  intro i hwf
  rw [decode_of_row (encode_and_rowMask i), withOperandOf_decode_rowMatch]
  cases i with
  | sample arg => exact congrArg Instr.sample (argOf_encode (.sample arg))
  | readPayload n =>
    exact congrArg Instr.readPayload (encode_operand (.readPayload n) rfl (by omega) (of_decide_eq_true hwf))
  | readRecord o =>
    exact congrArg Instr.readRecord (encode_operand (.readRecord o) rfl (by omega) (of_decide_eq_true hwf))
  | readDebug sel =>
    exact congrArg Instr.readDebug (encode_operand (.readDebug sel) rfl (by omega) (of_decide_eq_true hwf))
  | readWindow k =>
    exact congrArg Instr.readWindow (encode_operand (.readWindow k) rfl (by omega) (of_decide_eq_true hwf))
  | readConfig sel =>
    exact congrArg Instr.readConfig (encode_operand (.readConfig sel) rfl (by omega) (of_decide_eq_true hwf))
  | _ => rfl

/-- What the opcode mask leaves of a word is its opcode field (R71). -/
theorem and_rowMask_eq_opOf (w : Word) : w &&& rowMask = (opOf w).setWidth 32 <<< 28 := by
  apply BitVec.eq_of_getLsbD_eq
  intro k hk
  unfold rowMask opOf
  interval_cases k <;> simp

theorem lowField_lt (n : Nat) (arg : BitVec 28) : lowField n arg < 2 ^ n :=
  BitVec.isLt _

/-- The decoder takes every operand from a field it fits (R72). -/
theorem decode_wellFormed (w : Word) : (decode w).wellFormed = true := by
  unfold decode
  split <;> simp only [Instr.wellFormed, decide_eq_true_eq, lowField_lt]

/-- Settles O2: masked bits, match value and opcode of the decoded command are all the word's opcode
field. -/
theorem decodeFollowsOpcodeMap : Obligations.DecodeFollowsOpcodeMap := by
  intro w
  refine ⟨?row, opcode_decode w, decode_wellFormed w⟩
  case row => rw [and_rowMask_eq_opOf, rowMatch_eq_opcode, opcode_decode]

/-- A word with the opcode of a command is that command with the word's own operand (R73). -/
theorem decode_of_opOf {w : Word} {i : Instr} (h : opOf w = opcode i) : decode w = withOperandOf w i := by
  have hmasked : w &&& rowMask = rowMatch i := by rw [and_rowMask_eq_opOf, rowMatch_eq_opcode, h]
  rw [decode_of_row hmasked, withOperandOf_decode_rowMatch]

/-- Two words with the same opcode decode alike when their row takes the same operand from both. -/
theorem decode_eq_of_opOf {w w' : Word} (h : opOf w = opOf w')
    (hoperand : withOperandOf w (decode w) = withOperandOf w' (decode w)) : decode w = decode w' :=
  calc decode w = withOperandOf w (decode w) := decode_of_opOf (opcode_decode w).symm
    _ = withOperandOf w' (decode w) := hoperand
    _ = decode w' := (decode_of_opOf (h.symm.trans (opcode_decode w).symm)).symm

/-- Settles O3: `withOperandOf` takes no operand in the first group of rows and only the field's own bits
in the others; `SAMPLE` depends on its argument through `sampleOperand` alone. -/
theorem ignoredBitsHaveNoEffect : Obligations.IgnoredBitsHaveNoEffect := by
  refine ⟨fun w w' hsame => ?_, ?sample⟩
  rw [← opcode_decode w]
  refine ⟨fun hrow => decode_eq_of_opOf hsame ?none, fun hrow hfield => decode_eq_of_opOf hsame ?index,
    fun hrow hfield => decode_eq_of_opOf hsame ?selector,
    fun hrow hfield => decode_eq_of_opOf hsame ?window⟩
  case none =>
    cases hi : decode w with
    | sample _ | readPayload _ | readRecord _ | readDebug _ | readWindow _ | readConfig _ =>
      simp [hi, opcode] at hrow
    | _ => rfl
  case index =>
    cases hi : decode w <;> simp [hi, opcode, withOperandOf, hfield] at hrow ⊢
  case selector =>
    cases hi : decode w <;> simp [hi, opcode, withOperandOf, hfield] at hrow ⊢
  case window =>
    cases hi : decode w <;> simp [hi, opcode, withOperandOf, hfield] at hrow ⊢
  case sample =>
    intro a a' s hsame
    have hoperand : sampleOperand s.cfg a = sampleOperand s.cfg a' := congrArg BitVec.toInt hsame
    change execSample a s = execSample a' s
    unfold execSample
    rw [hoperand]

/-- Settles O4: each word decodes by evaluation to its row and operand. -/
theorem writtenWordsDecode : Obligations.WrittenWordsDecode := by
  unfold Obligations.WrittenWordsDecode
  decide

end Sys2Proof.Machine
end

section
/-! The assembler's samples (R87, R88). -/

namespace Sys2Proof.Machine

/-- The word of a `SAMPLE` (R71, R73). -/
theorem encode_sample (a : BitVec 28) : encode (.sample a) = 0x10000000#32 ||| a.setWidth 32 := by
  simp [encode, opcode, argument]

theorem assemble_sample (p : Params) (v : Int) :
    assemble p (.sample v) = (sampleArgument p v).map fun a => [encode (.sample a)] := by
  unfold assemble assembleCommand
  rw [Option.map_map]
  rfl

theorem assemble_hold (p : Params) (v : Int) {n : Int} (hn : 1 ≤ n) :
    assemble p (.hold v n) =
      (sampleArgument p v).map fun a => List.replicate n.toNat (encode (.sample a)) := by
  have hcommands : assembleCommand p (.hold v n) =
      (sampleArgument p v).map fun a => List.replicate n.toNat (.sample a) := if_pos hn
  rw [assemble, hcommands, Option.map_map]
  congr 1
  funext a
  exact List.map_replicate

/-- A value of `n` bits, written as an `n`-bit word, reads back as itself. -/
theorem toInt_ofInt_of_fits {n : Nat} {v : Int} (hn : 0 < n) (hv : fitsSigned n v = true) :
    (BitVec.ofInt n v).toInt = v := by
  obtain ⟨hlo, hhi⟩ := fitsSigned_iff.1 hv
  push_cast at hlo hhi
  have hpow : (2 : Int) ^ n = 2 * 2 ^ (n - 1) := by
    rw [← pow_succ', Nat.sub_add_cancel hn]
  rw [BitVec.toInt_ofInt]
  apply Int.bmod_eq_of_le <;> push_cast <;> omega

/-- Settles O5: a legal `SAMPLE_W` is at most 28, so the argument holds the whole truncated sample, and the
sample's range makes the truncation lossless. -/
theorem assembledSampleReadsBack : Obligations.AssembledSampleReadsBack := by
  intro p v hp
  obtain ⟨-, -, -, -, hmin, hmax⟩ := Params.legal_iff.1 hp
  refine ⟨fun hfits => ⟨(BitVec.ofInt p.sampleW v).setWidth 28, ?word, ?field, ?decodes, ?operand⟩,
    fun hout => ?refused⟩
  case word => rw [assemble_sample, sampleArgument, if_pos hfits, Option.map_some, encode_sample]
  case field =>
    rw [BitVec.toNat_setWidth]
    exact Nat.mod_eq_of_lt ((BitVec.isLt _).trans_le (Nat.pow_le_pow_right (by omega) hmax))
  case decodes =>
    rw [← encode_sample]
    exact decodeInvertsEncode (.sample _) rfl
  case operand =>
    rw [sampleOperand, BitVec.setWidth_setWidth_of_le _ hmax, BitVec.setWidth_eq]
    exact toInt_ofInt_of_fits (by omega) hfits
  case refused =>
    have hno : ¬ fitsSigned p.sampleW v = true := by rw [hout]; exact Bool.false_ne_true
    rw [assemble_sample, sampleArgument, if_neg hno]
    rfl

/-- Settles O6: `HOLD` and `SAMPLE` encode the same argument. -/
theorem holdIsCopiesOfSample : Obligations.HoldIsCopiesOfSample := by
  intro p v n w hn hsample
  rw [assemble_sample] at hsample
  rw [assemble_hold p v hn]
  cases harg : sampleArgument p v with
  | none => rw [harg] at hsample; cases hsample
  | some a =>
    rw [harg] at hsample
    cases hsample
    rfl

end Sys2Proof.Machine
end

section
/-! The command port and the edge (R70, R200, R250, R260): one equation of `step` per kind of edge. -/

namespace Sys2Proof.Machine

/-- Nothing driven is no command (R200). -/
theorem portEvent_of_no_pins {s : State} (h : s.pins = []) : portEvent s = .idle := by
  rw [portEvent, h]

theorem portEvent_of_rst {s : State} {c : PinCycle} {rest : List PinCycle} (h : s.pins = c :: rest)
    (hrst : c.rst = true) : portEvent s = .reset := by
  rw [portEvent_of_pins h, if_pos hrst]

/-- A word offered while `cmd_ready` is 1 is accepted (R70). -/
theorem portEvent_of_offer {s : State} {w : Word} {rest : List PinCycle} (hready : s.clearLeft = 0)
    (h : s.pins = { rst := false, cmdValid := true, cmd := w } :: rest) : portEvent s = .command w := by
  rw [portEvent_of_pins h, hready]
  rfl

/-- Without `rst`, no offer or `cmd_ready` 0 is no command (R70, R200). -/
theorem portEvent_of_no_offer {s : State} {c : PinCycle} {rest : List PinCycle} (h : s.pins = c :: rest)
    (hrst : c.rst = false) (hno : c.cmdValid = false ∨ s.clearLeft ≠ 0) : portEvent s = .idle := by
  have haccept : ¬ (c.cmdValid && s.clearLeft == 0) = true := by
    rw [Bool.and_eq_true, beq_iff_eq]
    rintro ⟨hvalid, hready⟩
    obtain hinvalid | hbusy := hno
    · exact Bool.false_ne_true (hinvalid.symm.trans hvalid)
    · exact hbusy hready
  rw [portEvent_of_pins h, hrst, if_neg Bool.false_ne_true, if_neg haccept]

theorem step_of_reset {s : State} (hlegal : s.cfg.legal = true) (h : portEvent s = .reset) :
    step s = .next (applyReset (passEdge s)) := by
  rw [step, if_pos hlegal, h]

theorem step_of_idle {s : State} (hlegal : s.cfg.legal = true) (h : portEvent s = .idle) :
    step s = .next (idleCycle (passEdge s)) := by
  rw [step, if_pos hlegal, h]

theorem step_of_command {s : State} {w : Word} (hlegal : s.cfg.legal = true)
    (h : portEvent s = .command w) :
    step s = if held s then exec (decode w) (passEdge s) else .fault .neverHeld := by
  rw [step, if_pos hlegal, h]

/-- Settles O7: the port accepts the word and every value is one that can be held. -/
theorem stepRunsDecodedCommand : Obligations.StepRunsDecodedCommand := by
  intro s w rest hlegal hheld hready hpins
  rw [step_of_command hlegal (portEvent_of_offer hready hpins), if_pos hheld, passEdge, hpins]
  rfl

/-- Settles O8: `rst` decides the edge before the offered command is looked at. -/
theorem rstWinsOverCommand : Obligations.RstWinsOverCommand := by
  intro s c rest hlegal hpins hrst
  refine ⟨?_, resetWith_respValid s.cfg⟩
  rw [step_of_reset hlegal (portEvent_of_rst hpins hrst), applyReset, passEdge_pins, hpins]
  rfl

/-- Settles O9: in each of the three cases the port sees no command, so the edge is the idle cycle. -/
theorem idleCycleOnlyLowersRespValid : Obligations.IdleCycleOnlyLowersRespValid := by
  intro s hlegal hquiet
  have hidle : portEvent s = .idle := by
    obtain hnone | ⟨c, rest, hpins, hrst, hno⟩ := hquiet
    · exact portEvent_of_no_pins hnone
    · exact portEvent_of_no_offer hpins hrst hno
  rw [step_of_idle hlegal hidle]
  rfl

/-- Settles O10: the first stop is the negation of R6's ranges, the second the check of `held`. -/
theorem statesTheSpecExcludesStop : Obligations.StatesTheSpecExcludesStop := by
  refine ⟨fun s hranges => ?configuration, fun s w rest hlegal hheld hready hpins => ?value⟩
  case configuration =>
    have hlegal : ¬ s.cfg.legal = true := by
      rw [Params.legal_iff]
      simpa only [and_assoc] using hranges
    rw [step, if_neg hlegal]
  case value =>
    rw [step_of_command hlegal (portEvent_of_offer hready hpins), hheld]
    rfl

/-- Settles O19: `RESET` and `rst` share `applyReset`, which does not look at the ports. -/
theorem resetStartsNewSession : Obligations.ResetStartsNewSession := by
  refine ⟨fun _ h => decode_of_row h, fun _ => rfl, fun s t c rest hpins hrst hstep => ?_⟩
  have hlegal : s.cfg.legal = true := (step_eq_next hstep).1
  rw [step_of_reset hlegal (portEvent_of_rst hpins hrst)] at hstep
  cases hstep
  rfl

/-- Settles O29 by the family of commands that write the response alone. -/
theorem onlySampleAndResetWriteState : Obligations.OnlySampleAndResetWriteState :=
  fun _ _ _ hsample hreset h => exec_eq_respond hsample hreset h

/-- Settles O60: every output is its derived value by definition; three of them are tests of equality. -/
theorem outputsShowTheState : Obligations.OutputsShowTheState := by
  intro s
  refine ⟨rfl, ?endDone, beq_iff_eq, rfl, rfl, rfl, beq_iff_eq⟩
  case endDone =>
    change endDone s = true ↔ _
    rw [endDone_eq_decide, decide_eq_true_iff]

end Sys2Proof.Machine
end

section
/-! The Pulse Classifier's bands and thresholds (R106, R120, R121) and the payload's index map (R52). -/

namespace Sys2Proof.Machine

theorem classify_eq_zero_iff {p : Params} {d : BitVec 16} : classify p d = .zero ↔ tHi p < d.toNat := by
  refine ⟨fun h => ?_, classify_of_tHi_lt⟩
  by_contra hle
  obtain hlow | hmid := Nat.lt_or_ge (tLo p) d.toNat
  · rw [classify_of_tLo_lt_of_le_tHi hlow (Nat.not_lt.1 hle)] at h
    cases h
  · rw [classify_of_le_tLo hmid] at h
    cases h

theorem classify_eq_ignore_iff {p : Params} {d : BitVec 16} :
    classify p d = .ignore ↔ d.toNat ≤ tLo p := by
  refine ⟨fun h => ?_, classify_of_le_tLo⟩
  by_contra hgt
  obtain hhigh | hmid := Nat.lt_or_ge (tHi p) d.toNat
  · rw [classify_of_tHi_lt hhigh] at h
    cases h
  · rw [classify_of_tLo_lt_of_le_tHi (Nat.not_le.1 hgt) hmid] at h
    cases h

/-- Settles O42: the bands of the two thresholds. -/
theorem classifierBands : Obligations.ClassifierBands :=
  fun _ _ => ⟨classify_eq_zero_iff, classify_eq_one_iff, classify_eq_ignore_iff⟩

/-- Settles O44: the largest `T_HI` is below the count at which a run saturates. -/
theorem saturatedRunIsZero : Obligations.SaturatedRunIsZero := by
  intro p hp
  have hfits : tHi p + 1 < 2 ^ 16 := tHi_succ_lt hp
  refine classify_of_tHi_lt ?_
  rw [BitVec.toNat_ofNat]
  omega

/-- Settles O45: an integer exceeds a floor exactly when it exceeds the fraction. -/
theorem floorThresholdsAreExact : Obligations.FloorThresholdsAreExact := by
  intro p d _
  rw [classify_eq_zero_iff, classify_eq_one_iff, classify_eq_ignore_iff, tLo, tHi]
  omega

/-- Settles O59: an index is its message and the place in it, by division by 30. -/
theorem payloadIndexMap : Obligations.PayloadIndexMap := by
  refine ⟨fun i hi => ⟨i / 30, i % 30, ?message, ?place, rfl, ?index⟩, fun i j hij => ?order,
    rfl, rfl, rfl, rfl⟩
  case order => unfold payOff; omega
  all_goals omega

end Sys2Proof.Machine
end

section
/-! The running sum never leaves its width (R100). -/

namespace Sys2Proof.Machine

/-- A list of at most `2 ^ k` values of `n` bits has a sum of `n + k` bits. -/
theorem sum_fits {n k : Nat} {l : List Int} (hn : 1 ≤ n) (hlength : l.length ≤ 2 ^ k)
    (hfits : ∀ x ∈ l, fitsSigned n x = true) : fitsSigned (n + k) l.sum = true := by
  set bound : Int := 2 ^ (n - 1) with hbound
  have hpos : 0 < bound := by positivity
  have hentry : ∀ x ∈ l, -bound ≤ x ∧ x ≤ bound - 1 := fun x hx => by
    obtain ⟨hlo, hhi⟩ := fitsSigned_iff.1 (hfits x hx)
    push_cast at hlo hhi
    exact ⟨hlo, Int.le_sub_one_of_lt hhi⟩
  have hlo : (l.length : Int) * -bound ≤ l.sum := by
    simpa using List.card_nsmul_le_sum l (-bound) fun x hx => (hentry x hx).1
  have hhi : l.sum ≤ (l.length : Int) * (bound - 1) := by
    simpa using List.sum_le_card_nsmul l (bound - 1) fun x hx => (hentry x hx).2
  have hcount : (l.length : Int) ≤ 2 ^ k := by exact_mod_cast hlength
  have hwidth : (2 : Int) ^ (n + k - 1) = 2 ^ k * bound := by
    rw [hbound, ← pow_add]
    congr 1
    omega
  rw [fitsSigned_iff]
  push_cast
  rw [hwidth]
  constructor
  · calc -(2 ^ k * bound) = 2 ^ k * -bound := by ring
      _ ≤ l.length * -bound := mul_le_mul_of_nonpos_right hcount (by omega)
      _ ≤ l.sum := hlo
  · calc l.sum ≤ l.length * (bound - 1) := hhi
      _ ≤ 2 ^ k * (bound - 1) := mul_le_mul_of_nonneg_right hcount (by omega)
      _ < 2 ^ k * bound := mul_lt_mul_of_pos_left (by omega) (by positivity)

/-- Settles O39: `W` is at most `2 ^ clog2 W`. -/
theorem sumAlwaysFits : Obligations.SumAlwaysFits := by
  intro p l hp hlength hfits
  obtain ⟨-, -, -, -, hwidth, -⟩ := Params.legal_iff.1 hp
  exact sum_fits (by omega) (hlength.trans (clog2_isLeast p.w).1) hfits

end Sys2Proof.Machine
end

section
/-! The invariants of R35, cut along the stages: what the Edge Detector keeps, and what the synchronizer and
the assembler keep together. -/

namespace Sys2Proof.Machine

/-- The Edge Detector's part of the invariants (R21 to R24; R35 items 1 and 2). -/
structure EdgeInv (p : Params) (e : EdgeState) : Prop where
  /-- The window has `W` entries. -/
  length : e.win.length = p.w
  /-- Every entry is a sample. -/
  samples : ∀ x ∈ e.win, fitsSigned p.sampleW x = true
  /-- `widx` is a slot. -/
  slot : e.widx < p.w
  /-- `sum` is the sum of the window. -/
  sum : e.sum = e.win.sum
  /-- `cur_sign` is the sign of `sum`. -/
  sign : e.curSign = signOf e.sum

/-- The part of the invariants the synchronizer and the assembler share (R29 to R32; R35 items 4 to
9). -/
structure RecordInv (p : Params) (sy : SyncState) (a : AsmState) : Prop where
  /-- `rem` is in its range for the phase. -/
  remRange : remHeld p sy = true
  /-- The record is in canonical form. -/
  wf : Memory.wf a.record = true
  /-- In SEEK_LEADER nothing is stored. -/
  leaderEmpty : sy.phase = .seekLeader → a.wrPtr.val = 0
  /-- In IN_STREAM there is room. -/
  streamRoom : sy.phase = .inStream → a.wrPtr.val < 1987
  /-- In SEEK_END the record is full. -/
  endFull : sy.phase = .seekEnd → a.wrPtr.val = 1987
  /-- Unfilled offsets read 0x00. -/
  unfilledZero : ∀ o, a.wrPtr.val ≤ o → o < 1987 → Memory.read a.record o = 0

/-- The values the Edge Detector can hold, as conditions (R21 to R23). -/
theorem edgeHeld_iff {p : Params} {e : EdgeState} :
    edgeHeld p e = true ↔ e.win.length = p.w ∧ (∀ x ∈ e.win, fitsSigned p.sampleW x = true) ∧
      fitsSigned (sumW p) e.sum = true ∧ e.widx < p.w := by
  simp only [edgeHeld, Bool.and_eq_true, decide_eq_true_eq, List.all_eq_true, and_assoc]

/-- In a legal configuration the sum of a window of samples fits by itself (R100). -/
theorem EdgeInv.held {p : Params} {e : EdgeState} (hp : p.legal = true) (h : EdgeInv p e) :
    edgeHeld p e = true := by
  have hsum : fitsSigned (sumW p) e.sum = true := by
    rw [h.sum]
    exact sumAlwaysFits p e.win hp h.length.le h.samples
  exact edgeHeld_iff.2 ⟨h.length, h.samples, hsum, h.slot⟩

/-- The invariants are those of the stages, in a legal configuration. -/
theorem stateInv_iff {s : State} :
    StateInv s ↔ s.cfg.legal = true ∧ EdgeInv s.cfg s.edge ∧ RecordInv s.cfg s.sync s.asm := by
  constructor
  · intro h
    obtain ⟨hedge, hrem⟩ := (Bool.and_eq_true _ _).mp h.inRange
    obtain ⟨hlength, hsamples, -, hslot⟩ := edgeHeld_iff.1 hedge
    exact ⟨h.legal, ⟨hlength, hsamples, hslot, h.sumOfWindow, h.signOfSum⟩,
      ⟨hrem, h.recordWf, h.leaderEmpty, h.streamRoom, h.endFull, h.unfilledZero⟩⟩
  · rintro ⟨hlegal, hedge, hrecord⟩
    have hheld : held s = true := (Bool.and_eq_true _ _).mpr ⟨hedge.held hlegal, hrecord.remRange⟩
    exact ⟨hlegal, hheld, hrecord.wf, hedge.sum, hedge.sign,
      hrecord.leaderEmpty, hrecord.streamRoom, hrecord.endFull, hrecord.unfilledZero⟩

/-- The invariants look at the parameters and three of the stages, at nothing else. -/
theorem stateInv_congr {s t : State} (hcfg : t.cfg = s.cfg) (hedge : t.edge = s.edge)
    (hsync : t.sync = s.sync) (hasm : t.asm = s.asm) (h : StateInv s) : StateInv t := by
  rw [stateInv_iff] at h ⊢
  rwa [hcfg, hedge, hsync, hasm]

theorem respond_inv {s : State} (v : Word) (h : StateInv s) : StateInv (respond v s) :=
  stateInv_congr (s := s) rfl rfl rfl rfl h

theorem passEdge_inv {s : State} (h : StateInv s) : StateInv (passEdge s) :=
  stateInv_congr (s := s) rfl rfl rfl rfl h

theorem idleCycle_inv {s : State} (h : StateInv s) : StateInv (idleCycle s) :=
  stateInv_congr (s := s) rfl rfl rfl rfl h

/-! ### Reset -/

theorem edgeInv_resetWith {p : Params} (hp : p.legal = true) : EdgeInv p (State.resetWith p).edge where
  length := List.length_replicate
  samples x hx := by
    rw [List.eq_of_mem_replicate hx, fitsSigned_iff]
    exact ⟨by simp, by positivity⟩
  slot := by
    obtain ⟨-, ⟨hw, -⟩, -⟩ := Params.legal_iff.1 hp
    exact hw
  sum := by rw [resetWith_edge, List.sum_replicate, smul_zero]
  sign := rfl

theorem remHeld_seekLeader {p : Params} {r : BitVec 16} :
    remHeld p { phase := .seekLeader, rem := r } = true ↔ 1 ≤ r.toNat ∧ r.toNat ≤ p.leadLen := by
  simp only [remHeld, Bool.and_eq_true, decide_eq_true_eq]

theorem remHeld_inStream {p : Params} {r : BitVec 16} :
    remHeld p { phase := .inStream, rem := r } = true ↔ r.toNat = 0 :=
  decide_eq_true_iff

theorem remHeld_seekEnd {p : Params} {r : BitVec 16} :
    remHeld p { phase := .seekEnd, rem := r } = true ↔ r.toNat ≤ p.endLen :=
  decide_eq_true_iff

/-- A legal `LEAD_LEN` fits the 16 bits of `rem` (R30), so loading it is exact. -/
theorem leadRem_toNat {p : Params} (hp : p.legal = true) : (leadRem p).toNat = p.leadLen :=
  resetWith_rem_toNat hp

/-- The full leader is a value `rem` can hold in SEEK_LEADER. -/
theorem remHeld_leadRem {p : Params} (hp : p.legal = true) :
    remHeld p { phase := .seekLeader, rem := leadRem p } = true := by
  obtain ⟨-, -, ⟨hlead, -⟩, -⟩ := Params.legal_iff.1 hp
  rw [remHeld_seekLeader, leadRem_toNat hp]
  exact ⟨hlead, le_rfl⟩

theorem recordInv_resetWith {p : Params} (hp : p.legal = true) :
    RecordInv p (State.resetWith p).sync (State.resetWith p).asm where
  remRange := remHeld_leadRem hp
  wf := rfl
  leaderEmpty _ := rfl
  streamRoom := nofun
  endFull := nofun
  unfilledZero _ _ _ := rfl

theorem resetWith_inv {p : Params} (hp : p.legal = true) : StateInv (State.resetWith p) :=
  stateInv_iff.2 ⟨hp, edgeInv_resetWith hp, recordInv_resetWith hp⟩

theorem applyReset_inv {s : State} (hs : s.cfg.legal = true) : StateInv (applyReset s) :=
  stateInv_congr (s := State.resetWith s.cfg) rfl rfl rfl rfl (resetWith_inv hs)

/-- Settles O13: `State.reset` is the reset state of a legal configuration. -/
theorem resetSatisfiesInvariants : Obligations.ResetSatisfiesInvariants :=
  ⟨fun _ => resetWith_inv, resetWith_inv rfl⟩

end Sys2Proof.Machine
end

section
/-! Every command and every edge keeps the invariants of R35, and none stops the machine (R230, R234). -/

namespace Sys2Proof.Machine

/-! ### Edge Detector -/

/-- The slot that the next sample replaces exists (R23). -/
theorem EdgeInv.oldest {p : Params} {e : EdgeState} (h : EdgeInv p e) :
    ∃ old, e.win[e.widx]? = some old :=
  ⟨_, List.getElem?_eq_getElem (h.length.symm ▸ h.slot)⟩

/-- Replacing an entry changes the sum by the difference (R102). -/
theorem sum_set_eq {l : List Int} {k : Nat} {old : Int} (h : l[k]? = some old) (x : Int) :
    (l.set k x).sum = l.sum - old + x := by
  obtain ⟨hk, rfl⟩ := List.getElem?_eq_some_iff.1 h
  rw [List.sum_set', dif_pos hk]
  ring

/-- A sample keeps the Edge Detector's invariants (R102). -/
theorem EdgeInv.edgeAfter {p : Params} {e : EdgeState} {x old : Int} (h : EdgeInv p e)
    (hold : e.win[e.widx]? = some old) (hx : fitsSigned p.sampleW x = true) :
    EdgeInv p (edgeAfter p x old e) where
  length := (List.length_set).trans h.length
  samples v hv := by
    obtain hv | rfl := List.mem_or_eq_of_mem_set hv
    · exact h.samples v hv
    · exact hx
  slot := Nat.mod_lt _ (Nat.zero_lt_of_lt h.slot)
  sum := by
    change e.sum - old + x = (e.win.set e.widx x).sum
    rw [sum_set_eq hold, h.sum]
  sign := rfl

theorem edgeObserve_inv {p : Params} {e e' : EdgeState} {x : Int} {ev : Option (BitVec 16)}
    (h : EdgeInv p e) (hx : fitsSigned p.sampleW x = true) (he : edgeObserve p x e = some (e', ev)) :
    EdgeInv p e' := by
  obtain ⟨old, hold, rfl, -⟩ := edgeObserve_eq_some he
  exact h.edgeAfter hold hx

/-! ### Block Synchronizer and Payload Assembler -/

/-- A byte written at `wr_ptr` leaves a record in canonical form whose offsets from the new `wr_ptr` on
read 0x00 (R31, R35 item 8). -/
theorem RecordInv.assembleWrite {p : Params} {sy : SyncState} {y : Byte} {a a' : AsmState}
    (h : RecordInv p sy a) (hwrite : assembleWrite y a = some a') :
    Memory.wf a'.record = true ∧
      ∀ o, a'.wrPtr.val ≤ o → o < 1987 → Memory.read a'.record o = 0 := by
  obtain ⟨hroom, hrecord, hptr⟩ := assembleWrite_eq_some hwrite
  rw [hrecord, hptr]
  refine ⟨Memory.write_wf h.wf hroom y, fun o ho hlt => ?_⟩
  rw [Memory.read_write_of_ne (by omega)]
  exact h.unfilledZero o (by omega) hlt

/-- While nothing is stored, a byte in SEEK_LEADER that leaves `rem` in its range keeps the invariants,
in whichever phase it ends. -/
theorem RecordInv.of_empty {p : Params} {sy sy' : SyncState} {a : AsmState} (h : RecordInv p sy a)
    (hempty : a.wrPtr.val = 0) (hphase : sy'.phase ≠ .seekEnd) (hrem : remHeld p sy' = true) :
    RecordInv p sy' a where
  remRange := hrem
  wf := h.wf
  leaderEmpty _ := hempty
  streamRoom _ := by omega
  endFull hend := absurd hend hphase
  unfilledZero := h.unfilledZero

/-- While the record is full, SEEK_END keeps the invariants with any `rem` in its range. -/
theorem RecordInv.of_full {p : Params} {sy sy' : SyncState} {a : AsmState} (h : RecordInv p sy a)
    (hfull : a.wrPtr.val = 1987) (hphase : sy'.phase = .seekEnd) (hrem : remHeld p sy' = true) :
    RecordInv p sy' a where
  remRange := hrem
  wf := h.wf
  leaderEmpty hlead := absurd (hlead.symm.trans hphase) (by decide)
  streamRoom hstream := absurd (hstream.symm.trans hphase) (by decide)
  endFull _ := hfull
  unfilledZero := h.unfilledZero

/-- Every byte the synchronizer takes keeps the invariants (R162 to R166). -/
theorem syncSubmit_inv {p : Params} {y : Byte} {sy : SyncState} {a : AsmState} {r : SyncResult}
    (hp : p.legal = true) (h : RecordInv p sy a) (hr : syncSubmit p y sy a = .ok r) :
    RecordInv p r.sync r.asm := by
  obtain ⟨ph, rem⟩ := sy
  obtain ⟨⟨ph', rem'⟩, a', stored⟩ := r
  have hremOld := h.remRange
  obtain ⟨hphase, hasm, -, hcount | ⟨-, hsync⟩⟩ | ⟨hphase, hwrite, -, hsync⟩ |
    ⟨hphase, hasm, -, hphase', hcount⟩ := syncSubmit_eq_ok hr
  case inl.inl =>
    obtain ⟨-, hne, hrem, hphase'⟩ := hcount
    dsimp only at hphase hasm hne hrem hphase' hremOld ⊢
    subst hphase hasm hrem hphase'
    have hsub := rem_sub_one_toNat hne
    have hrange := remHeld_seekLeader.1 hremOld
    refine h.of_empty (h.leaderEmpty rfl) ?_ ?_ <;> split
    · exact nofun
    · exact nofun
    · next hzero => rw [hzero]; exact remHeld_inStream.2 rfl
    · next hmore =>
      have := mt rem_toNat_zero_iff.1 hmore
      exact remHeld_seekLeader.2 (by omega)
  case inl.inr =>
    dsimp only at hphase hasm hsync ⊢
    subst hphase hasm
    rw [hsync]
    exact h.of_empty (h.leaderEmpty rfl) nofun (remHeld_leadRem hp)
  case inr.inl =>
    dsimp only at hphase hwrite hsync ⊢
    subst hphase
    obtain ⟨hwf, hzero⟩ := h.assembleWrite hwrite
    obtain ⟨hroom, -, hptr⟩ := assembleWrite_eq_some hwrite
    rw [hsync]
    split
    · next hlast =>
      exact ⟨remHeld_seekEnd.2 (endRem_toNat hp).le, hwf, nofun, nofun, fun _ => by omega, hzero⟩
    · next hmore => exact ⟨hremOld, hwf, nofun, fun _ => by omega, nofun, hzero⟩
  case inr.inr =>
    dsimp only at hphase hasm hphase' hcount hremOld ⊢
    subst hphase hasm hphase'
    have hrange := remHeld_seekEnd.1 hremOld
    refine h.of_full (h.endFull rfl) rfl (remHeld_seekEnd.2 ?_)
    obtain ⟨-, rfl⟩ | ⟨hne, -, rfl⟩ | ⟨-, -, rfl⟩ := hcount
    · exact Nat.zero_le _
    · rw [rem_sub_one_toNat hne]; omega
    · exact (endRem_toNat hp).le

/-! ### Commands -/

/-- A sample of `SAMPLE_W` bits through the stages keeps the invariants (R202). -/
theorem sampleStages_inv {x : Int} {s t : State} {ev : SampleEvent} (h : StateInv s)
    (hx : fitsSigned s.cfg.sampleW x = true) (hstages : sampleStages x s = .ok (t, ev)) : StateInv t := by
  obtain ⟨hlegal, hedge, hrecord⟩ := stateInv_iff.1 h
  obtain ⟨e, tr, he, hcases⟩ := sampleStages_eq_ok hstages
  have hedge' : EdgeInv s.cfg e := edgeObserve_inv hedge hx he
  obtain ⟨-, rfl, -⟩ | ⟨d, -, -, rfl, -⟩ | ⟨d, b, f, -, -, -, rfl, -⟩ |
    ⟨d, b, f, y, r, -, -, -, hr, rfl, -⟩ := hcases
  case inl | inr.inl | inr.inr.inl => exact stateInv_iff.2 ⟨hlegal, hedge', hrecord⟩
  case inr.inr.inr => exact stateInv_iff.2 ⟨hlegal, hedge', syncSubmit_inv hlegal hrecord hr⟩

/-- Where the invariants hold the stages take every sample (R230). -/
theorem sampleStages_isOk_of_inv {s : State} (h : StateInv s) (x : Int) :
    ∃ r, sampleStages x s = .ok r := by
  obtain ⟨-, hedge, hrecord⟩ := stateInv_iff.1 h
  obtain ⟨old, hold⟩ := hedge.oldest
  refine sampleStages_isOk x hold (fun hphase hzero => ?_) hrecord.streamRoom
  have hrem := hrecord.remRange
  simp [remHeld, hphase, hzero] at hrem

/-- `SAMPLE` responds what the stages did (R203). -/
theorem exec_sample_of_ok {arg : BitVec 28} {s t : State} {ev : SampleEvent}
    (h : sampleStages (sampleOperand s.cfg arg) s = .ok (t, ev)) :
    exec (.sample arg) s = .next (respond (sampleResp ev (phaseCode t.sync.phase)) t) := by
  change execSample arg s = _
  rw [execSample, h]

/-- Every command that answers keeps the invariants. -/
theorem exec_inv {i : Instr} {s t : State} (h : StateInv s) (hexec : exec i s = .next t) :
    StateInv t := by
  cases i with
  | sample arg =>
    obtain ⟨u, ev, hstages, rfl⟩ := execSample_eq_next hexec
    exact respond_inv _ (sampleStages_inv h (sampleOperand_fits s.cfg arg) hstages)
  | reset =>
    cases hexec
    exact respond_inv _ (applyReset_inv h.legal)
  | _ =>
    obtain ⟨v, rfl⟩ := exec_eq_respond (by simp) (by simp) hexec
    exact respond_inv v h

/-- Where the invariants hold every command answers (R230, R234). -/
theorem exec_goesOn (i : Instr) {s : State} (h : StateInv s) : goesOn (exec i s) := by
  cases i with
  | sample arg =>
    obtain ⟨⟨t, ev⟩, hstages⟩ := sampleStages_isOk_of_inv h (sampleOperand s.cfg arg)
    exact ⟨_, exec_sample_of_ok hstages⟩
  | readPayload n =>
    obtain hn | hn := Nat.lt_or_ge n 1920
    · exact ⟨_, exec_readPayload_of_lt hn s⟩
    · exact ⟨_, exec_readPayload_of_le hn s⟩
  | readRecord o =>
    obtain ho | ho := Nat.lt_or_ge o 1987
    · exact ⟨_, exec_readRecord_of_lt ho s⟩
    · exact ⟨_, exec_readRecord_of_le ho s⟩
  | readDebug sel =>
    cases hword : debugWord sel s with
    | none => exact ⟨_, exec_readDebug_of_none hword⟩
    | some v => exact ⟨_, exec_readDebug_of_some hword⟩
  | readWindow k =>
    obtain hk | hk := Nat.lt_or_ge k s.cfg.w
    · obtain ⟨-, hedge, -⟩ := stateInv_iff.1 h
      exact ⟨_, exec_readWindow_of_entry hk (List.getElem?_eq_getElem (hedge.length.symm ▸ hk))⟩
    · exact ⟨_, exec_readWindow_of_le hk⟩
  | readConfig sel =>
    cases hvalue : configValue sel s.cfg with
    | none => exact ⟨_, exec_readConfig_of_none hvalue⟩
    | some v => exact ⟨_, exec_readConfig_of_some hvalue⟩
  | _ => exact ⟨_, rfl⟩

/-- Every command that answers responds, and leaves the coming inputs alone (R200). -/
theorem exec_responds {i : Instr} {s t : State} (h : exec i s = .next t) :
    t.respValid = true ∧ t.pins = s.pins := by
  cases i with
  | sample arg =>
    obtain ⟨u, ev, hstages, rfl⟩ := execSample_eq_next h
    obtain ⟨e, tr, -, ⟨-, rfl, -⟩ | ⟨d, -, -, rfl, -⟩ | ⟨d, b, f, -, -, -, rfl, -⟩ |
      ⟨d, b, f, y, r, -, -, -, -, rfl, -⟩⟩ := sampleStages_eq_ok hstages <;> exact ⟨rfl, rfl⟩
  | reset => cases h; exact ⟨rfl, rfl⟩
  | _ =>
    obtain ⟨v, rfl⟩ := exec_eq_respond (by simp) (by simp) h
    exact ⟨rfl, rfl⟩

/-- Settles O16: where the invariants hold every command answers, and each answer keeps them. -/
theorem everyCommandResponds : Obligations.EveryCommandResponds := by
  intro i s h
  obtain ⟨t, hexec⟩ := exec_goesOn i h
  obtain ⟨hvalid, hpins⟩ := exec_responds hexec
  exact ⟨t, hexec, exec_inv h hexec, hvalid, hpins, exec_cfg hexec⟩

/-! ### Edges -/

/-- Settles O14: a reset gives the reset state, an idle cycle writes no stage, and a command keeps the
invariants whichever it is. -/
theorem stepKeepsInvariants : Obligations.StepKeepsInvariants := by
  intro s t h hstep
  obtain ⟨hlegal, ⟨-, rfl⟩ | ⟨-, rfl⟩ | ⟨w, -, -, hexec⟩⟩ := step_eq_next hstep
  · exact applyReset_inv hlegal
  · exact idleCycle_inv (passEdge_inv h)
  · exact exec_inv (passEdge_inv h) hexec

/-- Settles O15: the configuration is legal and every value is one that can be held, so an accepted command
runs, and it answers. -/
theorem stepNeverStops : Obligations.StepNeverStops := by
  intro s h
  cases hport : portEvent s with
  | reset => exact ⟨_, step_of_reset h.legal hport⟩
  | idle => exact ⟨_, step_of_idle h.legal hport⟩
  | command w =>
    rw [step_of_command h.legal hport, if_pos h.inRange]
    exact exec_goesOn (decode w) (passEdge_inv h)

end Sys2Proof.Machine
end

section
/-! `SAMPLE` as a whole (R202, R203): the stages' four ways through, and the fields of the response (R76). -/

namespace Sys2Proof.Machine

/-! ### The stages -/

theorem sampleStages_of_quiet {x : Int} {s : State} {e : EdgeState}
    (he : edgeObserve s.cfg x s.edge = some (e, none)) :
    sampleStages x s = .ok ({ s with edge := e }, quietEvent) := by
  rw [sampleStages, he]

theorem sampleStages_of_trans {x : Int} {s : State} {e : EdgeState} {d : BitVec 16}
    (he : edgeObserve s.cfg x s.edge = some (e, some d)) :
    sampleStages x s = transStages d { s with edge := e } := by
  rw [sampleStages, he]

theorem transStages_of_ignore {d : BitVec 16} {s : State} (hc : classify s.cfg d = .ignore) :
    transStages d s = .ok (s, transEvent d .ignore) := by
  rw [transStages, hc]
  rfl

theorem transStages_of_bit {d : BitVec 16} {b : Bool} {s : State}
    (hc : classify s.cfg d = if b then .one else .zero) :
    transStages d s = bitStages b (transEvent d (if b then .one else .zero)) s := by
  rw [transStages, classBit_eq_some.2 hc, hc]

theorem bitStages_of_no_byte {b : Bool} {ev : SampleEvent} {s : State} {f : FramerState}
    (hf : framePush b s.framer = (f, none)) : bitStages b ev s = .ok ({ s with framer := f }, ev) := by
  rw [bitStages, hf]

theorem bitStages_of_byte {b : Bool} {ev : SampleEvent} {s : State} {f : FramerState} {y : Byte}
    {r : SyncResult} (hf : framePush b s.framer = (f, some y))
    (hr : syncSubmit s.cfg y s.sync s.asm = .ok r) :
    bitStages b ev s = .ok ({ s with framer := f, sync := r.sync, asm := r.asm },
      { ev with bv := true, y := y, stored := r.stored }) := by
  have hstage : bitStages b ev s = byteStages y ev { s with framer := f } := by rw [bitStages, hf]
  rw [hstage, byteStages, hr]

/-! ### The response -/

theorem sampleResp_quiet (ph : BitVec 2) : sampleResp quietEvent ph = ph.setWidth 32 <<< 24 := by
  simp [sampleResp, quietEvent, flagWord_eq_ite]

theorem sampleResp_ignore (d : BitVec 16) (ph : BitVec 2) :
    sampleResp (transEvent d .ignore) ph =
      0x50000000#32 ||| ph.setWidth 32 <<< 24 ||| d.setWidth 32 := by
  simp [sampleResp, transEvent, quietEvent, flagWord_eq_ite, classCode]

theorem sampleResp_bit (d : BitVec 16) (b : Bool) (ph : BitVec 2) :
    sampleResp (transEvent d (if b then .one else .zero)) ph =
      (if b then 0x70000000#32 else 0x60000000#32) ||| ph.setWidth 32 <<< 24 ||| d.setWidth 32 := by
  cases b <;> simp [sampleResp, transEvent, quietEvent, flagWord_eq_ite, classCode]

theorem sampleResp_byte (d : BitVec 16) (b stored : Bool) (y : Byte) (ph : BitVec 2) :
    sampleResp { transEvent d (if b then .one else .zero) with bv := true, y := y, stored := stored } ph =
      (if b then 0x78000000#32 else 0x68000000#32) ||| (if stored then 0x04000000#32 else 0#32) |||
        ph.setWidth 32 <<< 24 ||| y.setWidth 32 <<< 16 ||| d.setWidth 32 := by
  cases b <;> cases stored <;>
    simp [sampleResp, transEvent, quietEvent, flagWord_eq_ite, classCode]

/-- Bit 31 of a `SAMPLE` response is 0: a sample is never an error (R75, R76). -/
theorem sampleResp_error (ev : SampleEvent) (ph : BitVec 2) : (sampleResp ev ph)[31] = false := by
  simp [sampleResp]

theorem sampleResp_trans (ev : SampleEvent) (ph : BitVec 2) : (sampleResp ev ph)[30] = ev.trans := by
  simp [sampleResp]

theorem sampleResp_stored (ev : SampleEvent) (ph : BitVec 2) : (sampleResp ev ph)[26] = ev.stored := by
  simp [sampleResp]

theorem sampleResp_y (ev : SampleEvent) (ph : BitVec 2) : (sampleResp ev ph).extractLsb' 16 8 = ev.y := by
  apply BitVec.eq_of_getLsbD_eq
  intro k hk
  interval_cases k <;> simp [sampleResp]

theorem sampleResp_dur (ev : SampleEvent) (ph : BitVec 2) :
    (sampleResp ev ph).extractLsb' 0 16 = ev.dur := by
  apply BitVec.eq_of_getLsbD_eq
  intro k hk
  interval_cases k <;> simp [sampleResp]

/-! ### The four cases -/

/-- Settles O32: the stages stop at the Edge Detector. -/
theorem sampleWithoutTransition : Obligations.SampleWithoutTransition := by
  intro s arg e he
  rw [exec_sample_of_ok (sampleStages_of_quiet he), sampleResp_quiet]
  rfl

/-- Settles O33: the stages stop at the classifier. -/
theorem sampleIgnoredTransition : Obligations.SampleIgnoredTransition := by
  intro s arg e d he hc
  have hstages := (sampleStages_of_trans he).trans (transStages_of_ignore hc)
  rw [exec_sample_of_ok hstages, sampleResp_ignore]
  rfl

/-- Settles O34: the stages stop at the framer. -/
theorem sampleBitWithoutByte : Obligations.SampleBitWithoutByte := by
  intro s arg e d b f he hc hf
  have hstages := ((sampleStages_of_trans he).trans (transStages_of_bit hc)).trans
    (bitStages_of_no_byte hf)
  rw [exec_sample_of_ok hstages, sampleResp_bit]
  rfl

/-- Settles O35: all five stages take part. -/
theorem sampleFramedByte : Obligations.SampleFramedByte := by
  intro s arg e d b f y r he hc hf hr
  have hstages := ((sampleStages_of_trans he).trans (transStages_of_bit hc)).trans
    (bitStages_of_byte hf hr)
  rw [exec_sample_of_ok hstages, sampleResp_byte]
  rfl

/-! ### What a sample does to the record and the phase -/

/-- The synchronizer stores the byte only in IN_STREAM, and otherwise leaves the assembler alone (R161). -/
theorem syncSubmit_store {p : Params} {y : Byte} {sy : SyncState} {a : AsmState} {r : SyncResult}
    (h : syncSubmit p y sy a = .ok r) :
    (r.stored = true ∧ sy.phase = .inStream ∧ assembleWrite y a = some r.asm) ∨
      (r.stored = false ∧ r.asm = a) := by
  obtain ⟨-, hasm, hstored, -⟩ | ⟨hphase, hwrite, hstored, -⟩ | ⟨-, hasm, hstored, -⟩ :=
    syncSubmit_eq_ok h
  case inl | inr.inr => exact .inr ⟨hstored, hasm⟩
  case inr.inl => exact .inl ⟨hstored, hphase, hwrite⟩

/-- A sample stores its framed byte in IN_STREAM, or leaves the assembler alone (R202). -/
theorem sampleStages_store {x : Int} {s t : State} {ev : SampleEvent}
    (h : sampleStages x s = .ok (t, ev)) :
    (ev.stored = true ∧ s.sync.phase = .inStream ∧ assembleWrite ev.y s.asm = some t.asm) ∨
      (ev.stored = false ∧ t.asm = s.asm) := by
  obtain ⟨e, tr, -, ⟨-, rfl, rfl⟩ | ⟨d, -, -, rfl, rfl⟩ | ⟨d, b, f, -, -, -, rfl, rfl⟩ |
    ⟨d, b, f, y, r, -, -, -, hr, rfl, rfl⟩⟩ := sampleStages_eq_ok h
  case inl | inr.inl | inr.inr.inl => exact .inr ⟨rfl, rfl⟩
  case inr.inr.inr => exact syncSubmit_store hr

/-- Settles O36: the response's `stored` bit tells which way the sample went, and a store is one write at
`wr_ptr`. -/
theorem sampleStoresAtWritePointerOnly : Obligations.SampleStoresAtWritePointerOnly := by
  intro s t arg hinv hexec
  obtain ⟨u, ev, hstages, rfl⟩ := execSample_eq_next hexec
  simp only [respond_resp, respond_asm, sampleResp_stored, sampleResp_y]
  obtain ⟨hstored, hphase, hwrite⟩ | ⟨hstored, hasm⟩ := sampleStages_store hstages
  · obtain ⟨-, hrecord, hptr⟩ := assembleWrite_eq_some hwrite
    refine ⟨fun _ => ⟨hphase, hptr, ?_, fun o ho => ?_⟩,
      fun hno => absurd (hstored.symm.trans hno) (by decide)⟩
    · rw [hrecord, Memory.read_write_same hinv.recordWf]
    · rw [hrecord, Memory.read_write_of_ne ho]
  · exact ⟨fun hyes => absurd (hstored.symm.trans hyes) (by decide), fun _ => hasm⟩

/-- `t` comes no earlier in the session than `s`: filled bytes and `wr_ptr` are kept or grow, and the phase
moves by at most one place (R53, R168). -/
structure Forward (s t : State) : Prop where
  /-- Filled bytes stay. -/
  bytes : ∀ o, o < s.asm.wrPtr.val → Memory.read t.asm.record o = Memory.read s.asm.record o
  /-- `wr_ptr` does not go back. -/
  ptr : s.asm.wrPtr.val ≤ t.asm.wrPtr.val
  /-- The phase does not go back. -/
  phaseLe : phaseRank s.sync.phase ≤ phaseRank t.sync.phase
  /-- The phase moves by at most one place. -/
  phaseStep : phaseRank t.sync.phase ≤ phaseRank s.sync.phase + 1

theorem Forward.of_unchanged {s t : State} (hsync : t.sync = s.sync) (hasm : t.asm = s.asm) :
    Forward s t where
  bytes _ _ := by rw [hasm]
  ptr := by rw [hasm]
  phaseLe := by rw [hsync]
  phaseStep := by rw [hsync]; exact Nat.le_succ _

/-- A store writes at `wr_ptr`, above every filled byte (R53). -/
theorem assembleWrite_forward {y : Byte} {a a' : AsmState} (h : assembleWrite y a = some a') :
    (∀ o, o < a.wrPtr.val → Memory.read a'.record o = Memory.read a.record o) ∧
      a.wrPtr.val ≤ a'.wrPtr.val := by
  obtain ⟨-, hrecord, hptr⟩ := assembleWrite_eq_some h
  refine ⟨fun o ho => ?_, by omega⟩
  rw [hrecord, Memory.read_write_of_ne ho.ne]

/-- The synchronizer moves the phase by at most one place, never back (R168). -/
theorem syncSubmit_phaseRank {p : Params} {y : Byte} {sy : SyncState} {a : AsmState} {r : SyncResult}
    (h : syncSubmit p y sy a = .ok r) :
    phaseRank sy.phase ≤ phaseRank r.sync.phase ∧
      phaseRank r.sync.phase ≤ phaseRank sy.phase + 1 := by
  obtain ⟨hphase, -, -, ⟨-, -, -, hphase'⟩ | ⟨-, hsync⟩⟩ | ⟨hphase, -, -, hsync⟩ |
    ⟨hphase, -, -, hphase', -⟩ := syncSubmit_eq_ok h
  case inl.inl => rw [hphase, hphase']; split <;> decide
  case inl.inr => rw [hphase, hsync]; exact ⟨le_rfl, Nat.le_succ _⟩
  case inr.inl => rw [hsync]; split <;> simp [hphase, phaseRank, phaseCode]
  case inr.inr => rw [hphase, hphase']; decide

theorem syncSubmit_forward {s t : State} {y : Byte} {r : SyncResult}
    (h : syncSubmit s.cfg y s.sync s.asm = .ok r) (hsync : t.sync = r.sync) (hasm : t.asm = r.asm) :
    Forward s t := by
  obtain ⟨hle, hstep⟩ := syncSubmit_phaseRank h
  rw [← hsync] at hle hstep
  obtain ⟨-, -, hwrite⟩ | ⟨-, hkept⟩ := syncSubmit_store h
  · rw [← hasm] at hwrite
    obtain ⟨hbytes, hptr⟩ := assembleWrite_forward hwrite
    exact ⟨hbytes, hptr, hle, hstep⟩
  · have hkept' : t.asm = s.asm := hasm.trans hkept
    exact ⟨fun _ _ => by rw [hkept'], by rw [hkept'], hle, hstep⟩

/-- Every command but `RESET` moves forward. -/
theorem exec_forward {i : Instr} {s t : State} (hreset : i ≠ .reset) (h : exec i s = .next t) :
    Forward s t := by
  cases i with
  | sample arg =>
    obtain ⟨u, ev, hstages, rfl⟩ := execSample_eq_next h
    obtain ⟨e, tr, -, ⟨-, rfl, -⟩ | ⟨d, -, -, rfl, -⟩ | ⟨d, b, f, -, -, -, rfl, -⟩ |
      ⟨d, b, f, y, r, -, -, -, hr, rfl, -⟩⟩ := sampleStages_eq_ok hstages
    case inl | inr.inl | inr.inr.inl => exact .of_unchanged rfl rfl
    case inr.inr.inr => exact syncSubmit_forward hr rfl rfl
  | reset => exact absurd rfl hreset
  | _ =>
    obtain ⟨v, rfl⟩ := exec_eq_respond (by simp) (by simp) h
    exact .of_unchanged rfl rfl

/-- Settles O37: an idle edge writes neither stage, and a command other than `RESET` moves forward. -/
theorem sessionOnlyMovesForward : Obligations.SessionOnlyMovesForward := by
  intro s t _ hstep hrst hreset
  have hforward : Forward s t := by
    obtain ⟨-, ⟨hport, -⟩ | ⟨-, rfl⟩ | ⟨w, hport, -, hexec⟩⟩ := step_eq_next hstep
    · exact absurd hport hrst
    · exact .of_unchanged rfl rfl
    · obtain ⟨hbytes, hptr, hle, hone⟩ := exec_forward (hreset w hport) hexec
      exact ⟨hbytes, hptr, hle, hone⟩
  exact ⟨hforward.bytes, hforward.ptr, hforward.phaseLe, hforward.phaseStep⟩

end Sys2Proof.Machine
end


section
/-! Which responses have bit 31 set (R75, R231, R232). -/

namespace Sys2Proof.Machine

/-! ### Bit 31 of a word -/

theorem ofNat_flag {v : Nat} (hv : v < 2 ^ 31) : (BitVec.ofNat 32 v)[31] = false := by
  rw [← BitVec.getLsbD_eq_getElem, BitVec.getLsbD_ofNat, Nat.testBit_lt_two_pow hv, Bool.and_false]

theorem fitsSigned_mono {n m : Nat} {v : Int} (hnm : n ≤ m) (h : fitsSigned n v = true) :
    fitsSigned m v = true := by
  obtain ⟨hlo, hhi⟩ := fitsSigned_iff.1 h
  have hpow : 2 ^ (n - 1) ≤ 2 ^ (m - 1) := Nat.pow_le_pow_right (by omega) (by omega)
  rw [fitsSigned_iff]
  omega

/-- The top bit of a value that fits is its sign. -/
theorem ofInt_msb {n : Nat} {v : Int} (hn : 0 < n) (h : fitsSigned n v = true) :
    (BitVec.ofInt n v).msb = decide (v < 0) := by
  rw [BitVec.msb_eq_toInt, toInt_ofInt_of_fits hn h]

theorem ofInt_flag {v : Int} (h : fitsSigned 32 v = true) : (BitVec.ofInt 32 v)[31] = decide (v < 0) :=
  ofInt_msb (by omega) h

/-! ### The responses -/

/-- Every error response has bit 31 set (R231). -/
theorem errorWord_flag (c : ErrorCode) : (errorWord c)[31] = true := by
  cases c <;> rfl

theorem errorWord_mem (c : ErrorCode) :
    errorWord c ∈ [0x80000001#32, 0x80000002#32, 0x80000003#32] := by
  cases c <;> decide

theorem statusWord_flag (s : State) : (statusWord s)[31] = false := by
  have hfits : s.asm.wrPtr.val < 2 ^ (31 - 8) := lt_trans s.asm.wrPtr.isLt (by decide)
  rw [← BitVec.getLsbD_eq_getElem, statusWord_getLsbD_of_eight_le s (by omega) (by omega),
    Nat.testBit_lt_two_pow hfits]

theorem flaggedByte_error (flag : Bool) (b : Byte) : (flaggedByte flag b)[31] = false := by
  simp [flaggedByte]

/-- Every parameter and threshold of a legal configuration is far below bit 31 (R6). -/
theorem configValue_lt {sel v : Nat} {p : Params} (hp : p.legal = true)
    (h : configValue sel p = some v) : v < 2 ^ 31 := by
  obtain ⟨⟨-, hrect⟩, ⟨-, hw⟩, ⟨-, hlead⟩, ⟨-, hend⟩, -, hsample⟩ := Params.legal_iff.1 hp
  have hlo : tLo p < 2 ^ 31 := by unfold tLo; omega
  have hhi : tHi p < 2 ^ 31 := by unfold tHi; omega
  unfold configValue at h
  split at h <;> cases h <;> omega

/-- The selectors below 7 name a value (R83). -/
theorem configValue_eq_none {sel : Nat} {p : Params} : configValue sel p = none ↔ 7 ≤ sel := by
  refine ⟨fun h => ?_, fun h => configValue_of_seven_le h p⟩
  by_contra hlt
  have hsel : sel < 7 := Nat.not_le.1 hlt
  interval_cases sel <;> cases h

/-- The commands and operands of R232's table, but for the two that return full words. -/
def TableError (i : Instr) : Prop :=
  i ∈ [Instr.reservedA, .reservedB, .reservedC, .reservedD, .reservedE, .reservedF] ∨
    (∃ n, i = .readPayload n ∧ 1920 ≤ n) ∨ (∃ n, i = .readRecord n ∧ 1987 ≤ n) ∨
    (∃ n, i = .readConfig n ∧ 7 ≤ n)

/-- Every command but the two that return full words answers with an error of the table, or with a
response whose bit 31 is 0. -/
theorem exec_error_or_success {i : Instr} {s t : State} (hp : s.cfg.legal = true)
    (h : exec i s = .next t) (hwindow : ∀ k, i ≠ .readWindow k)
    (hdebug : ∀ sel, i ≠ .readDebug sel) :
    (TableError i ∧ ∃ c, t.resp = errorWord c) ∨ (¬ TableError i ∧ t.resp[31] = false) := by
  unfold TableError
  cases i with
  | nop | reset => cases h; exact .inr ⟨by simp, by simp⟩
  | sample arg =>
    obtain ⟨u, ev, -, rfl⟩ := execSample_eq_next h
    exact .inr ⟨by simp, sampleResp_error ev _⟩
  | readStatus => cases h; exact .inr ⟨by simp, statusWord_flag s⟩
  | readValid => cases h; exact .inr ⟨by simp, flagWord_getElem (validFlag s) (by omega)⟩
  | readPayload n =>
    obtain ⟨hn, rfl⟩ | ⟨hn, rfl⟩ := execReadPayload_eq_next h
    · exact .inl ⟨by simp [hn], .range, rfl⟩
    · exact .inr ⟨by simp [hn], flaggedByte_error _ _⟩
  | readRecord o =>
    obtain ⟨ho, rfl⟩ | ⟨ho, rfl⟩ := execReadRecord_eq_next h
    · exact .inl ⟨by simp [ho], .range, rfl⟩
    · exact .inr ⟨by simp [ho], flaggedByte_error _ _⟩
  | readDebug sel => exact absurd rfl (hdebug sel)
  | readWindow k => exact absurd rfl (hwindow k)
  | readConfig sel =>
    obtain ⟨hnone, rfl⟩ | ⟨v, hsome, rfl⟩ := execReadConfig_eq_next h
    · exact .inl ⟨by simp [configValue_eq_none.1 hnone], .select, rfl⟩
    · have hsel : ¬ 7 ≤ sel := by simp [← configValue_eq_none (p := s.cfg), hsome]
      exact .inr ⟨by simpa using hsel, ofNat_flag (configValue_lt hp hsome)⟩
  | reservedA | reservedB | reservedC | reservedD | reservedE | reservedF =>
    cases h
    exact .inl ⟨by simp, .opcode, rfl⟩

/-! ### READ_WINDOW -/

/-- A sample, sign-extended, is no error word, and its bit 31 is its sign (R82). -/
theorem sample_word {p : Params} {x : Int} (hp : p.legal = true) (hx : fitsSigned p.sampleW x = true) :
    BitVec.ofInt 32 x ≠ 0x80000002#32 ∧ (BitVec.ofInt 32 x)[31] = decide (x < 0) := by
  obtain ⟨-, -, -, -, -, hwidth⟩ := Params.legal_iff.1 hp
  have hx28 : fitsSigned 28 x = true := fitsSigned_mono hwidth hx
  have hx32 : fitsSigned 32 x = true := fitsSigned_mono (by omega) hx28
  refine ⟨fun hword => ?_, ofInt_flag hx32⟩
  have hvalue : x = (0x80000002#32).toInt := by rw [← hword, toInt_ofInt_of_fits (by omega) hx32]
  rw [hvalue] at hx28
  exact absurd hx28 (by decide)

/-- `E_RANGE` of READ_WINDOW is no value it returns, and its bit 31 is the error or the entry's sign. -/
theorem readWindow_flag {k : Nat} {s t : State} (hp : s.cfg.legal = true) (hheld : held s = true)
    (h : exec (.readWindow k) s = .next t) :
    (t.resp = 0x80000002#32 ↔ s.cfg.w ≤ k) ∧
      (t.resp[31] = true ↔ s.cfg.w ≤ k ∨ ∃ x : Int, s.edge.win[k]? = some x ∧ x < 0) := by
  obtain ⟨hedge, -⟩ := (Bool.and_eq_true _ _).mp hheld
  obtain ⟨hlength, hsamples, -, -⟩ := edgeHeld_iff.1 hedge
  obtain ⟨hk, rfl⟩ | ⟨x, hx, rfl⟩ := execReadWindow_eq_next h
  · exact ⟨iff_of_true rfl hk, iff_of_true (errorWord_flag .range) (.inl hk)⟩
  · obtain ⟨hk, rfl⟩ := List.getElem?_eq_some_iff.1 hx
    obtain ⟨hvalue, hsign⟩ := sample_word hp (hsamples _ (List.getElem_mem hk))
    have hrange : ¬ s.cfg.w ≤ k := by omega
    refine ⟨iff_of_false hvalue hrange, ?_⟩
    rw [respond_resp, hsign, decide_eq_true_iff, or_iff_right hrange, hx]
    simp

/-! ### READ_DEBUG -/

/-- In a legal configuration `SUM_W` is at most 36 (R8). -/
theorem sumW_le {p : Params} (hp : p.legal = true) : sumW p ≤ 36 := by
  obtain ⟨-, ⟨-, hw⟩, -, -, -, hwidth⟩ := Params.legal_iff.1 hp
  have hclog : clog2 p.w ≤ 8 := (clog2_isLeast p.w).2 8 hw
  unfold sumW
  omega

theorem setWidth_ofInt (v : Int) : (BitVec.ofInt 64 v).setWidth 32 = BitVec.ofInt 32 v := by
  apply BitVec.eq_of_toNat_eq
  rw [BitVec.toNat_setWidth, BitVec.toNat_ofInt, BitVec.toNat_ofInt]
  push_cast
  omega

/-- Bit 31 of the low half of `sum` is that of its 32-bit truncation (R81). -/
theorem sum64_low_flag (e : EdgeState) :
    ((sum64 e).extractLsb' 0 32)[31] = (BitVec.ofInt 32 e.sum)[31] := by
  rw [← setWidth_ofInt]
  simp [sum64]

/-- Bit 31 of the high half of `sum` is its sign (R81). -/
theorem sum64_high_flag {p : Params} {e : EdgeState} (hp : p.legal = true)
    (hsum : fitsSigned (sumW p) e.sum = true) :
    ((sum64 e).extractLsb' 32 32)[31] = decide (e.sum < 0) := by
  have hwide : fitsSigned 64 e.sum = true := fitsSigned_mono ((sumW_le hp).trans (by omega)) hsum
  rw [← ofInt_msb (by omega) hwide]
  simp [sum64, BitVec.msb_eq_getLsbD_last]

/-- When bit 31 of a debug word is set: the values of selectors 5 to 7 alone can have it (R81). -/
theorem debugWord_flag {sel : Nat} {v : Word} {s : State} (hp : s.cfg.legal = true)
    (hheld : held s = true) (h : debugWord sel s = some v) :
    v[31] = true ↔ (sel = 5 ∧ (BitVec.ofInt 32 s.edge.sum)[31] = true) ∨
      (sel = 6 ∧ s.edge.sum < 0) ∨ (sel = 7 ∧ s.edge.curSign = .neg) := by
  obtain ⟨hedge, -⟩ := (Bool.and_eq_true _ _).mp hheld
  obtain ⟨-, -, hsum, hslot⟩ := edgeHeld_iff.1 hedge
  obtain ⟨-, ⟨-, hw⟩, -⟩ := Params.legal_iff.1 hp
  unfold debugWord at h
  split at h <;> cases h
  case h_6 => simp [← sum64_low_flag]
  case h_7 => simp [sum64_high_flag hp hsum]
  case h_8 => cases s.edge.curSign <;> simp [signCode]
  case h_3 => simp [ofNat_flag (v := s.framer.fcnt.val) (by omega)]
  case h_5 => simp [ofNat_flag (v := s.edge.widx) (by omega)]
  all_goals simp

theorem readDebug_flag {sel : Nat} {s t : State} (hp : s.cfg.legal = true) (hheld : held s = true)
    (h : exec (.readDebug sel) s = .next t) :
    (9 ≤ sel → t.resp = 0x80000003#32) ∧
      (t.resp[31] = true ↔ 9 ≤ sel ∨ (sel = 5 ∧ (BitVec.ofInt 32 s.edge.sum)[31] = true) ∨
        (sel = 6 ∧ s.edge.sum < 0) ∨ (sel = 7 ∧ s.edge.curSign = .neg)) := by
  obtain hsel | hsel := Nat.lt_or_ge sel 9
  · obtain ⟨hnone, -⟩ | ⟨v, hsome, rfl⟩ := execReadDebug_eq_next h
    · interval_cases sel <;> cases hnone
    · rw [or_iff_right (Nat.not_le.2 hsel)]
      exact ⟨fun hle => absurd hsel (Nat.not_lt.2 hle), debugWord_flag hp hheld hsome⟩
  · rw [exec_readDebug_of_none (debugWord_of_nine_le hsel s)] at h
    cases h
    exact ⟨fun _ => rfl, iff_of_true (errorWord_flag .select) (.inl hsel)⟩

/-- Settles O31: bit 31 separates the table's errors from every other answer, and the two commands that
return full words are read bit by bit. -/
theorem errorResponsesAreExactlyTheTable : Obligations.ErrorResponsesAreExactlyTheTable := by
  refine ⟨fun i s t hp h hwindow hdebug => ?table, fun _ _ _ => readWindow_flag,
    fun _ _ _ => readDebug_flag⟩
  obtain ⟨herror, c, hword⟩ | ⟨hsuccess, hflag⟩ := exec_error_or_success hp h hwindow hdebug
  · rw [hword]
    exact ⟨iff_of_true (errorWord_flag c) herror, fun _ => errorWord_mem c⟩
  · rw [hflag]
    exact ⟨iff_of_false Bool.false_ne_true hsuccess, nofun⟩

end Sys2Proof.Machine
end

section
/-! Commands one after another (R59, R61), and what a session says of `run_cnt` (R35 item 3). -/

namespace Sys2Proof.Machine

theorem runCommands_cons_of_next {i : Instr} {s t : State} (h : exec i s = .next t) (is : List Instr) :
    runCommands (i :: is) s = runCommands is t := by
  rw [runCommands, h]

/-- A sequence that runs through runs through command by command. -/
theorem runCommands_cons_eq_next {i : Instr} {is : List Instr} {s t : State} :
    runCommands (i :: is) s = .next t ↔ ∃ u, exec i s = .next u ∧ runCommands is u = .next t := by
  rw [runCommands]
  cases exec i s <;> simp

theorem runCommands_append_eq_next {is js : List Instr} {s t : State} :
    runCommands (is ++ js) s = .next t ↔
      ∃ u, runCommands is s = .next u ∧ runCommands js u = .next t := by
  induction is generalizing s with
  | nil => simp [runCommands]
  | cons i is ih =>
    simp only [List.cons_append, runCommands_cons_eq_next, ih]
    exact ⟨fun ⟨v, hv, u, hu, ht⟩ => ⟨u, ⟨v, hv, hu⟩, ht⟩,
      fun ⟨u, ⟨v, hv, hu⟩, ht⟩ => ⟨v, hv, u, hu, ht⟩⟩

/-- A counted run never counts back to 0 (R106). -/
theorem satInc16_ne_zero (v : BitVec 16) : satInc16 v ≠ 0 := by
  intro h
  have hcount := satInc16_toNat v
  rw [h] at hcount
  change 0 = _ at hcount
  omega

/-- After a sample the run holds at least that sample (R105, R106). -/
theorem sampleStages_runCnt_ne_zero {x : Int} {s t : State} {ev : SampleEvent}
    (h : sampleStages x s = .ok (t, ev)) : t.edge.runCnt ≠ 0 := by
  obtain ⟨e, tr, he, hcases⟩ := sampleStages_eq_ok h
  have hedge : t.edge = e := by
    obtain ⟨-, rfl, -⟩ | ⟨d, -, -, rfl, -⟩ | ⟨d, b, f, -, -, -, rfl, -⟩ |
      ⟨d, b, f, y, r, -, -, -, -, rfl, -⟩ := hcases <;> rfl
  obtain ⟨old, -, rfl, -⟩ := edgeObserve_eq_some he
  rw [hedge]
  by_cases hsame : (edgeAfter s.cfg x old s.edge).curSign = s.edge.curSign
  · rw [edgeAfter_runCnt_of_same hsame]
    exact satInc16_ne_zero _
  · rw [edgeAfter_runCnt_of_change hsame]
    decide

/-- Settles O17, by induction on the session from its end: a last `SAMPLE` leaves a run, a last `RESET`
clears it, and any other last command leaves it as it was. -/
theorem runCountZeroMeansNoSample : Obligations.RunCountZeroMeansNoSample := by
  intro p is t _ hrun
  induction is using List.reverseRecOn generalizing t with
  | nil => cases hrun; exact iff_of_true rfl (by simp)
  | append_singleton is i ih =>
    obtain ⟨u, hu, hlast⟩ := runCommands_append_eq_next.1 hrun
    obtain ⟨t', hexec, hnil⟩ := runCommands_cons_eq_next.1 hlast
    cases hnil
    rw [List.reverse_append, List.reverse_singleton, List.singleton_append]
    cases i with
    | sample a =>
      obtain ⟨v, ev, hstages, rfl⟩ := execSample_eq_next hexec
      have hrun : v.edge.runCnt ≠ 0 := sampleStages_runCnt_ne_zero hstages
      exact iff_of_false hrun (fun h => h a (by simp))
    | reset => cases hexec; exact iff_of_true rfl (by simp)
    | _ =>
      obtain ⟨v, rfl⟩ := exec_eq_respond (by simp) (by simp) hexec
      simpa using ih u hu

end Sys2Proof.Machine
end

section
/-! Silence after a reset (R107, R187). -/

namespace Sys2Proof.Machine

/-- A state reached from reset by samples that are all 0. -/
structure Silent (p : Params) (s : State) : Prop where
  /-- The invariants hold. -/
  inv : StateInv s
  /-- The block was built with `p`. -/
  cfg : s.cfg = p
  /-- Every entry of the window is 0. -/
  window : ∀ x ∈ s.edge.win, x = 0
  /-- The framer is as after reset. -/
  framer : s.framer = (State.resetWith p).framer
  /-- The synchronizer is as after reset. -/
  sync : s.sync = (State.resetWith p).sync
  /-- The assembler is as after reset. -/
  asm : s.asm = (State.resetWith p).asm
  /-- The last response is 0. -/
  resp : s.resp = 0

theorem silent_resetWith {p : Params} (hp : p.legal = true) : Silent p (State.resetWith p) where
  inv := resetWith_inv hp
  cfg := rfl
  window _ hx := List.eq_of_mem_replicate hx
  framer := rfl
  sync := rfl
  asm := rfl
  resp := rfl

theorem Silent.sum {p : Params} {s : State} (h : Silent p s) : s.edge.sum = 0 := by
  rw [h.inv.sumOfWindow]
  exact List.sum_eq_zero h.window

theorem Silent.sign {p : Params} {s : State} (h : Silent p s) : s.edge.curSign = .zero := by
  rw [h.inv.signOfSum, h.sum, signOf_zero]

/-- A zero sample in silence: the sum stays 0, so there is no transition (R104, R107). -/
theorem Silent.sample {p : Params} {s t : State} {a : BitVec 28} (h : Silent p s)
    (ha : sampleOperand p a = 0) (hexec : exec (.sample a) s = .next t) : Silent p t := by
  obtain ⟨-, hedge, -⟩ := stateInv_iff.1 h.inv
  obtain ⟨old, hold⟩ := hedge.oldest
  have hold0 : old = 0 := h.window old (List.mem_of_getElem? hold)
  have hsum : s.edge.sum - old + 0 = 0 := by rw [h.sum, hold0]; rfl
  have hobserve : edgeObserve s.cfg (sampleOperand s.cfg a) s.edge =
      some (edgeAfter s.cfg 0 old s.edge, none) := by
    rw [h.cfg, ha, edgeObserve_of_entry hold, hsum, signOf_zero, h.sign, if_pos rfl]
  have hinv : StateInv t := exec_inv h.inv hexec
  rw [exec_sample_of_ok (sampleStages_of_quiet hobserve), sampleResp_quiet] at hexec
  cases hexec
  refine ⟨hinv, h.cfg, fun x hx => ?window, h.framer, h.sync, h.asm, ?resp⟩
  case window =>
    obtain hx | rfl := List.mem_or_eq_of_mem_set hx
    · exact h.window x hx
    · rfl
  case resp =>
    rw [respond_resp, h.sync, resetWith_sync, phaseCode]
    decide

/-- Settles O41, by induction on the samples. -/
theorem silenceReportsNothing : Obligations.SilenceReportsNothing := by
  intro p as t hp hzero hrun
  have hsilent : Silent p t := by
    have hstart : Silent p (State.resetWith p) := silent_resetWith hp
    revert hstart hrun
    generalize State.resetWith p = s
    induction as generalizing s with
    | nil => intro hrun hs; cases hrun; exact hs
    | cons a as ih =>
      intro hrun hs
      obtain ⟨u, hexec, hrest⟩ := runCommands_cons_eq_next.1 hrun
      exact ih (fun b hb => hzero b (List.mem_cons_of_mem a hb)) u hrest
        (hs.sample (hzero a List.mem_cons_self) hexec)
  refine ⟨hsilent.resp, hsilent.sign, hsilent.framer, hsilent.sync, hsilent.asm, ?valid⟩
  rw [validFlag, hsilent.asm]
  rfl

end Sys2Proof.Machine
end

section
/-! The Bit-to-Byte Framer on whole frames (R146 to R149). -/

namespace Sys2Proof.Machine

theorem pushBits_append (bs cs : List Bool) (f : FramerState) :
    pushBits (bs ++ cs) f = ((pushBits cs (pushBits bs f).1).1,
      (pushBits bs f).2 ++ (pushBits cs (pushBits bs f).1).2) := by
  induction bs generalizing f with
  | nil => rfl
  | cons b bs ih => simp only [List.cons_append, pushBits, ih]

theorem pushBits_length (bs : List Bool) (f : FramerState) : (pushBits bs f).2.length = bs.length := by
  induction bs generalizing f with
  | nil => rfl
  | cons b bs ih => simp only [pushBits, List.length_cons, ih]

/-- A push that brings the count to at most 10 emits nothing and counts (R141, R143). -/
theorem framePush_of_count_lt (b : Bool) {f : FramerState} (hf : f.fcnt.val < 10) :
    (framePush b f).2 = none ∧ (framePush b f).1.fcnt.val = f.fcnt.val + 1 := by
  obtain ⟨hcount, -, -⟩ | ⟨-, hpush⟩ := framePush_cases b f
  · omega
  · rw [hpush]
    refine ⟨rfl, ?_⟩
    rw [satInc11_val]
    omega

/-- Until ten bits are counted no push emits a byte (R143, R146). -/
theorem pushBits_of_count_le {bs : List Bool} {f : FramerState} (h : f.fcnt.val + bs.length ≤ 10) :
    (pushBits bs f).2.filterMap id = [] ∧ (pushBits bs f).1.fcnt.val = f.fcnt.val + bs.length := by
  induction bs generalizing f with
  | nil => exact ⟨rfl, rfl⟩
  | cons b bs ih =>
    rw [List.length_cons] at h ⊢
    obtain ⟨hnone, hcount⟩ := framePush_of_count_lt b (f := f) (by omega)
    obtain ⟨hrest, hend⟩ := ih (f := (framePush b f).1) (by omega)
    rw [pushBits, hnone]
    exact ⟨hrest, by dsimp only; omega⟩

/-- The eleven bits of a frame fill the register with the frame: the match condition holds and the byte is
the one sent (R144, R145, R147). -/
theorem pushBits_wireFrame_freg (y : Byte) (f : FramerState) :
    frameMatch (pushBits (wireFrame y) f).1.freg = true ∧
      frameByte (pushBits (wireFrame y) f).1.freg = y := by
  have hbit : ∀ k x, (wireFrame y)[k]? = some x → (pushBits (wireFrame y) f).1.freg.getLsbD k = x :=
    fun k x => elevenBitsFillTheRegister.2 (wireFrame y) f k x rfl
  refine ⟨(frameMatch_iff _).2 ⟨hbit 10 _ rfl, hbit 9 _ rfl, hbit 0 _ rfl⟩, ?_⟩
  apply BitVec.eq_of_getLsbD_eq
  intro k hk
  rw [frameByte, BitVec.getLsbD_extractLsb', decide_eq_true hk, Bool.true_and, Nat.add_comm]
  interval_cases k <;> exact hbit _ _ rfl

/-- The bits of a frame before its last stop bit. -/
theorem wireFrame_eq_append (y : Byte) :
    wireFrame y = [false, y[0], y[1], y[2], y[3], y[4], y[5], y[6], y[7], true] ++ [true] := rfl

/-- A framer with count 0 reads a frame as its byte, emitted at the last bit, and is at count 0 again
(R146, R147). -/
theorem pushBits_wireFrame (y : Byte) {f : FramerState} (hf : f.fcnt.val = 0) :
    (pushBits (wireFrame y) f).2.filterMap id = [y] ∧ (pushBits (wireFrame y) f).1.fcnt.val = 0 := by
  obtain ⟨hmatch, hbyte⟩ := pushBits_wireFrame_freg y f
  rw [wireFrame_eq_append, pushBits_append] at hmatch hbyte ⊢
  obtain ⟨hquiet, hcount⟩ := pushBits_of_count_le (f := f)
    (bs := [false, y[0], y[1], y[2], y[3], y[4], y[5], y[6], y[7], true]) (by simp [hf])
  generalize pushBits [false, y[0], y[1], y[2], y[3], y[4], y[5], y[6], y[7], true] f = r
    at hmatch hbyte hquiet hcount ⊢
  simp only [pushBits, framePush_freg] at hmatch hbyte ⊢
  obtain ⟨-, -, hpush⟩ | ⟨hno, -⟩ := framePush_cases true r.1
  · rw [hpush, List.filterMap_append, hquiet, hbyte]
    exact ⟨rfl, rfl⟩
  · exact absurd ⟨by simp [hcount, hf], hmatch⟩ hno

/-- Settles O48, by induction on the bytes: each frame ends at count 0, where the next one starts. -/
theorem framerRecoversTheByteStream : Obligations.FramerRecoversTheByteStream := by
  intro ys
  induction ys with
  | nil => exact fun f hf => ⟨rfl, hf⟩
  | cons y ys ih =>
    intro f hf
    obtain ⟨hbyte, hcount⟩ := pushBits_wireFrame y hf
    obtain ⟨hbytes, hend⟩ := ih _ hcount
    rw [List.flatMap_cons, pushBits_append, List.filterMap_append, hbyte, hbytes]
    exact ⟨rfl, hend⟩

/-- A frame of 0xFF leaves its eleven bits in the register (R142, R147). -/
theorem pushBits_allOnes_freg (f : FramerState) : (pushBits (wireFrame 0xFF#8) f).1.freg = 0x7FE#11 := by
  have hbit : ∀ k x, (wireFrame 0xFF#8)[k]? = some x →
      (pushBits (wireFrame 0xFF#8) f).1.freg.getLsbD k = x :=
    fun k x => elevenBitsFillTheRegister.2 (wireFrame 0xFF#8) f k x rfl
  apply BitVec.eq_of_getLsbD_eq
  intro k hk
  interval_cases k <;> exact hbit _ _ rfl

/-- With a frame of 0xFF in the register, no push of a second one matches before its last bit, since the
bit in the start bit's place is a 1 of the first; so at the last bit the count is at least 10 and the
frame matches, whatever the count was (R148). -/
theorem pushBits_allOnes_locks (c : Fin 12) :
    (pushBits (wireFrame 0xFF#8) { freg := 0x7FE#11, fcnt := c }).1 = { freg := 0x7FE#11, fcnt := 0 } := by
  decide +revert

/-- From any state two frames of 0xFF end at the true frame boundary (R148). -/
theorem pushBits_two_allOnes (f : FramerState) :
    (pushBits (wireFrame 0xFF#8 ++ wireFrame 0xFF#8) f).1 = { freg := 0x7FE#11, fcnt := 0 } := by
  have hfirst : (pushBits (wireFrame 0xFF#8) f).1 =
      { freg := 0x7FE#11, fcnt := (pushBits (wireFrame 0xFF#8) f).1.fcnt } := by
    rw [← pushBits_allOnes_freg f]
  rw [pushBits_append, hfirst]
  dsimp only
  rw [pushBits_allOnes_locks]

/-- Settles O49: the two frames are 22 pushes and leave count 0, from which every frame is read. -/
theorem leaderLocksTheFramer : Obligations.LeaderLocksTheFramer := by
  intro f ys
  have hlock := pushBits_two_allOnes f
  refine ⟨hlock, ?_⟩
  have hpushes : (pushBits (wireFrame 0xFF#8 ++ wireFrame 0xFF#8) f).2.length = 22 := pushBits_length _ f
  rw [pushBits_append, hlock, List.drop_left' hpushes]
  exact (framerRecoversTheByteStream ys _ rfl).1

end Sys2Proof.Machine
end

section
/-! The Block Synchronizer on runs of bytes: the leader, the record and the end block (R162 to R166). -/

namespace Sys2Proof.Machine

/-! ### One byte of the leader -/

/-- A byte 0xFF of the leader is counted, and the last one starts the stream (R162). -/
theorem syncSubmit_of_seekLeader_allOnes {sy : SyncState} (hphase : sy.phase = .seekLeader)
    (hrem : sy.rem ≠ 0#16) (p : Params) (a : AsmState) :
    syncSubmit p 0xFF#8 sy a = .ok
      { sync := { phase := if sy.rem - 1#16 = 0#16 then .inStream else .seekLeader, rem := sy.rem - 1#16 }
        asm := a, stored := false } := by
  have hstage : syncSubmit p 0xFF#8 sy a = leaderByte p 0xFF#8 sy a := by rw [syncSubmit, hphase]
  rw [hstage]
  exact (if_pos rfl).trans (if_neg hrem)

/-- Any other byte starts the leader again (R162). -/
theorem syncSubmit_of_seekLeader_ne {y : Byte} {sy : SyncState} (hphase : sy.phase = .seekLeader)
    (hy : y ≠ 0xFF#8) (p : Params) (a : AsmState) :
    syncSubmit p y sy a = .ok
      { sync := { phase := .seekLeader, rem := leadRem p }, asm := a, stored := false } := by
  have hstage : syncSubmit p y sy a = leaderByte p y sy a := by rw [syncSubmit, hphase]
  rw [hstage]
  exact if_neg hy

/-- Settles O50: `rem` is at least 1, so a byte 0xFF is counted, and any other byte reloads `LEAD_LEN`. -/
theorem leaderByteRule : Obligations.LeaderByteRule := by
  intro p y sy a hp hphase hpos
  have hrem : sy.rem ≠ 0#16 := mt rem_toNat_zero_iff.2 (Nat.pos_iff_ne_zero.1 hpos)
  by_cases hy : y = 0xFF#8
  · subst hy
    have hsub : (sy.rem - 1#16).toNat = sy.rem.toNat - 1 := rem_sub_one_toNat hrem
    have hlast : sy.rem - 1#16 = 0#16 ↔ sy.rem.toNat = 1 := by
      rw [← rem_toNat_zero_iff, hsub]
      omega
    exact ⟨_, syncSubmit_of_seekLeader_allOnes hphase hrem p a, rfl, rfl, fun _ => hsub,
      fun _ hone => if_pos (hlast.2 hone), fun _ hmore => if_neg (mt hlast.1 hmore.ne'),
      fun hne => absurd rfl hne⟩
  · exact ⟨_, syncSubmit_of_seekLeader_ne hphase hy p a, rfl, rfl, fun heq => absurd heq hy,
      fun heq => absurd heq hy, fun heq => absurd heq hy, fun _ => ⟨rfl, leadRem_toNat hp⟩⟩

/-! ### Runs of 0xFF -/

/-- The bytes after those taken start from where they end. -/
theorem submitBytes_append {p : Params} {ys : List Byte} {sy sy' : SyncState} {a a' : AsmState}
    (h : submitBytes p ys sy a = .ok (sy', a')) (zs : List Byte) :
    submitBytes p (ys ++ zs) sy a = submitBytes p zs sy' a' := by
  induction ys generalizing sy a with
  | nil => cases h; rfl
  | cons y ys ih =>
    cases hr : syncSubmit p y sy a with
    | error e => rw [submitBytes, hr] at h; cases h
    | ok r =>
      rw [submitBytes_cons_of_ok hr] at h
      rw [List.cons_append, submitBytes_cons_of_ok hr, ih h]

/-- `rem` counts down exactly, whatever number from 1 it holds. -/
theorem ofNat_succ_sub_one (m : Nat) : BitVec.ofNat 16 (m + 1) - 1#16 = BitVec.ofNat 16 m := by
  rw [BitVec.ofNat_add, BitVec.add_sub_cancel]

theorem ofNat_ne_zero {m : Nat} (hpos : 0 < m) (hfits : m < 2 ^ 16) : BitVec.ofNat 16 m ≠ 0#16 := by
  intro h
  have hzero := congrArg BitVec.toNat h
  rw [BitVec.toNat_ofNat, Nat.mod_eq_of_lt hfits] at hzero
  exact hpos.ne' hzero

/-- While more than one byte is needed, each 0xFF lowers `rem` by one (R162). -/
theorem submitBytes_leader (p : Params) (a : AsmState) {n m : Nat} (hn : n < m) (hm : m < 2 ^ 16) :
    submitBytes p (List.replicate n 0xFF#8) { phase := .seekLeader, rem := BitVec.ofNat 16 m } a =
      .ok ({ phase := .seekLeader, rem := BitVec.ofNat 16 (m - n) }, a) := by
  induction n generalizing m with
  | zero => rfl
  | succ n ih =>
    obtain ⟨m, rfl⟩ := Nat.exists_eq_succ_of_ne_zero (Nat.ne_of_gt (Nat.zero_lt_of_lt hn))
    have hfirst := syncSubmit_of_seekLeader_allOnes
      (sy := { phase := .seekLeader, rem := BitVec.ofNat 16 (m + 1) }) rfl
      (ofNat_ne_zero (Nat.succ_pos m) hm) p a
    have hmore : BitVec.ofNat 16 m ≠ 0#16 := ofNat_ne_zero (by omega) (by omega)
    rw [ofNat_succ_sub_one, if_neg hmore] at hfirst
    rw [List.replicate_succ, submitBytes_cons_of_ok hfirst, ih (by omega) (by omega),
      Nat.succ_sub_succ]

/-- Settles O51: `rem` is 1 after `LEAD_LEN - 1` bytes, the next one starts the stream, and any other byte
before it starts the leader again. -/
theorem leaderTakesItsFullLength : Obligations.LeaderTakesItsFullLength := by
  intro p a n y hp
  obtain ⟨-, -, ⟨hpos, hmax⟩, -⟩ := Params.legal_iff.1 hp
  have hrun : ∀ k, k < p.leadLen →
      submitBytes p (List.replicate k 0xFF) { phase := .seekLeader, rem := leadRem p } a =
        .ok ({ phase := .seekLeader, rem := BitVec.ofNat 16 (p.leadLen - k) }, a) :=
    fun k hk => submitBytes_leader p a hk (by omega)
  refine ⟨hrun n, ?full, fun hn hy => ?restart⟩
  case full =>
    have hlast : p.leadLen = (p.leadLen - 1) + 1 := (Nat.sub_add_cancel hpos).symm
    have hone : p.leadLen - (p.leadLen - 1) = 1 := by omega
    rw [hlast, List.replicate_succ', submitBytes_append (hrun _ (by omega)), hone]
    rfl
  case restart =>
    rw [submitBytes_append (hrun n hn), submitBytes_cons_of_ok (syncSubmit_of_seekLeader_ne rfl hy p a)]
    rfl

/-- In SEEK_END no bytes reach the assembler, and the phase stays (R165, R166). -/
theorem submitBytes_of_seekEnd (p : Params) (zs : List Byte) {sy : SyncState} (hphase : sy.phase = .seekEnd)
    (a : AsmState) : ∃ sy', submitBytes p zs sy a = .ok (sy', a) ∧ sy'.phase = .seekEnd := by
  induction zs generalizing sy with
  | nil => exact ⟨sy, rfl, hphase⟩
  | cons z zs ih =>
    have hfirst := syncSubmit_of_seekEnd hphase p z a
    obtain ⟨hlead, -⟩ | ⟨hstream, -⟩ | ⟨-, hasm, -, hphase', -⟩ := syncSubmit_eq_ok hfirst
    · exact absurd (hlead.symm.trans hphase) (by decide)
    · exact absurd (hstream.symm.trans hphase) (by decide)
    · obtain ⟨sy', hrest, hend⟩ := ih hphase'
      rw [submitBytes_cons_of_ok hfirst, hasm]
      exact ⟨sy', hrest, hend⟩

/-- `rem` bytes 0xFF satisfy the end block (R165). -/
theorem submitBytes_endBlock (p : Params) (a : AsmState) {m : Nat} (hm : m < 2 ^ 16) :
    submitBytes p (List.replicate m 0xFF#8) { phase := .seekEnd, rem := BitVec.ofNat 16 m } a =
      .ok ({ phase := .seekEnd, rem := 0#16 }, a) := by
  induction m with
  | zero => rfl
  | succ m ih =>
    have hfirst := syncSubmit_of_seekEnd
      (sy := { phase := .seekEnd, rem := BitVec.ofNat 16 (m + 1) }) rfl p 0xFF#8 a
    rw [endByte_allOnes (ofNat_ne_zero (Nat.succ_pos m) hm), ofNat_succ_sub_one] at hfirst
    rw [List.replicate_succ, submitBytes_cons_of_ok hfirst, ih (by omega)]

/-! ### The record -/

/-- While the record has room for them, the bytes of the stream are stored from `wr_ptr` on, in order; the
one that fills the record ends the stream (R163, R164). -/
theorem submitBytes_stream (p : Params) {ys : List Byte} {sy : SyncState} {a : AsmState}
    (hphase : sy.phase = .inStream) (hwf : Memory.wf a.record = true) (hroom : a.wrPtr.val < 1987)
    (hfit : a.wrPtr.val + ys.length ≤ 1987) :
    ∃ a', submitBytes p ys sy a =
        .ok (if a.wrPtr.val + ys.length = 1987 then { phase := .seekEnd, rem := endRem p } else sy, a') ∧
      a'.wrPtr.val = a.wrPtr.val + ys.length ∧
      (∀ k y, ys[k]? = some y → Memory.read a'.record (a.wrPtr.val + k) = y) ∧
      (∀ o, o < a.wrPtr.val ∨ a.wrPtr.val + ys.length ≤ o →
        Memory.read a'.record o = Memory.read a.record o) := by
  induction ys generalizing sy a with
  | nil => exact ⟨a, by rw [List.length_nil, if_neg (by omega)]; rfl, rfl, nofun, fun _ _ => rfl⟩
  | cons y ys ih =>
    rw [List.length_cons] at hfit ⊢
    obtain ⟨a₁, hwrite⟩ := assembleWrite_isSome y hroom
    obtain ⟨-, hrecord, hptr⟩ := assembleWrite_eq_some hwrite
    have hstored : Memory.read a₁.record a.wrPtr.val = y := by
      rw [hrecord, Memory.read_write_same hwf]
    have hframe : ∀ o, o ≠ a.wrPtr.val → Memory.read a₁.record o = Memory.read a.record o :=
      fun o ho => by rw [hrecord, Memory.read_write_of_ne ho]
    rw [submitBytes_cons_of_ok (syncSubmit_of_inStream hphase hwrite)]
    by_cases hlast : a.wrPtr.val + 1 = 1987
    · have hnil : ys = [] := List.eq_nil_of_length_eq_zero (by omega)
      subst hnil
      rw [List.length_nil, Nat.zero_add, if_pos hlast]
      refine ⟨a₁, rfl, hptr, fun k z hz => ?_, fun o ho => hframe o (by omega)⟩
      cases k with
      | zero => cases hz; exact hstored
      | succ k => cases hz
    · rw [if_neg hlast]
      obtain ⟨a', hrest, hptr', hstored', hframe'⟩ := ih hphase
        (by rw [hrecord]; exact Memory.write_wf hwf hroom y) (by omega) (by omega)
      have hcount : a₁.wrPtr.val + ys.length = a.wrPtr.val + (ys.length + 1) := by omega
      rw [hcount] at hrest hptr' hframe'
      refine ⟨a', hrest, hptr', fun k z hz => ?_, fun o ho => ?_⟩
      · cases k with
        | zero =>
          cases hz
          rw [Nat.add_zero, hframe' _ (by omega), hstored]
        | succ k =>
          have hplace : a.wrPtr.val + (k + 1) = a₁.wrPtr.val + k := by omega
          rw [hplace]
          exact hstored' k z hz
      · rw [hframe' o (by omega), hframe o (by omega)]

/-- From an empty record the bytes of the stream are the record (R53, R54). -/
theorem submitBytes_record (p : Params) {ys : List Byte} (hlength : ys.length ≤ 1987) :
    ∃ a, submitBytes p ys { phase := .inStream, rem := 0 } { record := [], wrPtr := 0 } =
        .ok (if ys.length = 1987 then { phase := .seekEnd, rem := endRem p }
          else { phase := .inStream, rem := 0 }, a) ∧
      a.wrPtr.val = ys.length ∧
      (∀ k y, ys[k]? = some y → Memory.read a.record k = y) ∧
      (∀ o, ys.length ≤ o → Memory.read a.record o = 0) := by
  obtain ⟨a, hrun, hptr, hstored, hframe⟩ := submitBytes_stream p (ys := ys)
    (sy := { phase := .inStream, rem := 0 }) (a := { record := [], wrPtr := 0 }) rfl rfl (by decide)
    (by simpa using hlength)
  simp only [Fin.val_zero, Nat.zero_add] at hrun hptr hstored hframe
  exact ⟨a, hrun, hptr, hstored, fun o ho => hframe o (.inr ho)⟩

/-- Settles O53: the bytes up to the 1987th are the record, and bytes after it come in SEEK_END. -/
theorem recordHoldsBytesInArrivalOrder : Obligations.RecordHoldsBytesInArrivalOrder := by
  intro p ys zs hp hlength hzs
  obtain ⟨a, hrun, hptr, hstored, hzero⟩ := submitBytes_record p hlength
  rw [submitBytes_append hrun]
  by_cases hfull : ys.length = 1987
  · rw [if_pos hfull]
    obtain ⟨sy, hrest, hphase⟩ := submitBytes_of_seekEnd p zs
      (sy := { phase := .seekEnd, rem := endRem p }) rfl a
    exact ⟨sy, a, hrest, hptr, hstored, hzero, iff_of_true hphase hfull⟩
  · obtain rfl : zs = [] := hzs.resolve_right hfull
    rw [if_neg hfull]
    exact ⟨_, a, rfl, hptr, hstored, hzero, iff_of_false nofun hfull⟩

end Sys2Proof.Machine
end

section
/-! One byte of a valid record changed (R183, R188). -/

namespace Sys2Proof.Machine

/-- A sum over a range in which one term is replaced. -/
theorem sum_range_replace {f g : Nat → Nat} {n j : Nat} (hj : j < n) (h : ∀ k, k ≠ j → g k = f k) :
    ((List.range n).map g).sum + f j = ((List.range n).map f).sum + g j := by
  induction n with
  | zero => omega
  | succ n ih =>
    simp only [List.range_succ, List.map_append, List.sum_append, List.map_singleton, List.sum_singleton]
    obtain hlt | rfl := Nat.lt_succ_iff_lt_or_eq.1 hj
    · rw [h n (by omega)]
      have := ih hlt
      omega
    · have hbefore : (List.range j).map g = (List.range j).map f :=
        List.map_congr_left fun k hk => h k (List.mem_range.1 hk).ne
      rw [hbefore]
      omega

/-- Another value at one data byte gives a message another checksum: the sum moves by less than 256
(R183). -/
theorem chk_write_ne {r : Memory} {m j : Nat} {v : Byte} (hwf : Memory.wf r = true) (hj : j < 30)
    (hv : v ≠ Memory.read r (msgOff m j)) : chk (Memory.write r (msgOff m j) v) m ≠ chk r m := by
  have hsum := sum_range_replace (n := 30)
    (f := fun k => (Memory.read r (msgOff m k)).toNat)
    (g := fun k => (Memory.read (Memory.write r (msgOff m j) v) (msgOff m k)).toNat) hj
    fun k hk => by rw [Memory.read_write_of_ne (by unfold msgOff; omega)]
  rw [Memory.read_write_same hwf] at hsum
  have hvalue : v.toNat ≠ (Memory.read r (msgOff m j)).toNat := mt BitVec.eq_of_toNat_eq hv
  have hnew : v.toNat < 256 := v.isLt
  have hold : (Memory.read r (msgOff m j)).toNat < 256 := BitVec.isLt _
  intro hchk
  have hmod := congrArg BitVec.toNat hchk
  simp only [chk, BitVec.toNat_ofNat, Config.msgData] at hmod
  omega

/-- Writing a byte's own value back restores the record (R31). -/
theorem write_write_read {r : Memory} {o : Nat} (hwf : Memory.wf r = true) (ho : o < 1987) (v : Byte) :
    Memory.write (Memory.write r o v) o (Memory.read r o) = r := by
  have hwf' : Memory.wf (Memory.write r o v) = true := Memory.write_wf hwf ho v
  refine Memory.ext_from (lo := 0) (Memory.write_wf hwf' ho _) hwf fun o' => ?_
  by_cases hsame : o' = o
  · rw [hsame, Memory.read_write_same hwf']
  · rw [Memory.read_write_of_ne hsame, Memory.read_write_of_ne hsame]

/-- Settles O58: the checksum byte stays while the message's checksum changes, and writing the old value
restores the record itself. -/
theorem oneByteChangeFlipsValid : Obligations.OneByteChangeFlipsValid := by
  intro r m j v hwf hvalid hm hj hv
  obtain ⟨-, -, -, hchecks⟩ := validFn_iff.1 hvalid
  refine ⟨?invalid, ?restored⟩
  case invalid =>
    rw [Bool.eq_false_iff]
    intro hstill
    obtain ⟨-, -, -, hchecks'⟩ := validFn_iff.1 hstill
    have hcheck := hchecks' m hm
    have hplace : msgOff m Config.msgData ≠ 2 + 31 * m + j := by
      simp only [msgOff, Config.msgSize, Config.msgData]
      omega
    rw [Memory.read_write_of_ne hplace, hchecks m hm] at hcheck
    exact chk_write_ne hwf hj hv hcheck.symm
  case restored =>
    rw [write_write_read hwf (by omega)]
    exact hvalid

end Sys2Proof.Machine
end

section
/-! Pulses with `W = 1` (R105, R106): what a sample passes to the later stages, and the pulse that a run of
equal samples is. -/

namespace Sys2Proof.Machine

/-! ### Bits from the classifier on -/

/-- The stages after the classifier take `bits` from `s` to `t` (R141, R161): the framer pushes them and
the bytes it emits go to the synchronizer. -/
structure Delivers (bits : List Bool) (s t : State) : Prop where
  /-- The parameters stay. -/
  cfg : t.cfg = s.cfg
  /-- The framer has pushed the bits. -/
  framer : t.framer = (pushBits bits s.framer).1
  /-- The synchronizer has taken the bytes emitted. -/
  bytes : submitBytes s.cfg ((pushBits bits s.framer).2.filterMap id) s.sync s.asm = .ok (t.sync, t.asm)

theorem Delivers.append {bs cs : List Bool} {s t u : State} (hst : Delivers bs s t)
    (htu : Delivers cs t u) : Delivers (bs ++ cs) s u where
  cfg := htu.cfg.trans hst.cfg
  framer := by rw [pushBits_append, ← hst.framer, htu.framer]
  bytes := by
    rw [pushBits_append, List.filterMap_append, submitBytes_append hst.bytes, ← hst.framer, ← hst.cfg]
    exact htu.bytes

/-- No bit leaves the later stages as they are. -/
theorem Delivers.nil {s t : State} (hcfg : t.cfg = s.cfg) (hframer : t.framer = s.framer)
    (hsync : t.sync = s.sync) (hasm : t.asm = s.asm) : Delivers [] s t where
  cfg := hcfg
  framer := hframer
  bytes := by rw [hsync, hasm]; rfl

/-- The bit a reported transition passes on, if any (R122). -/
def reportedBit (p : Params) (tr : Option (BitVec 16)) : List Bool :=
  (tr.bind fun d => classBit (classify p d)).toList

theorem reportedBit_of_ignore {p : Params} {d : BitVec 16} (hc : classify p d = .ignore) :
    reportedBit p (some d) = [] := by
  rw [reportedBit, Option.bind_some, classBit_eq_none.2 hc]
  rfl

theorem reportedBit_of_bit {p : Params} {d : BitVec 16} {b : Bool}
    (hc : classify p d = if b then .one else .zero) : reportedBit p (some d) = [b] := by
  rw [reportedBit, Option.bind_some, classBit_eq_some.2 hc]
  rfl

/-- A sample through the stages is the Edge Detector's answer with the bit of its report delivered
(R202). -/
theorem sampleStages_delivers {x : Int} {s t : State} {ev : SampleEvent} {e : EdgeState}
    {tr : Option (BitVec 16)} (he : edgeObserve s.cfg x s.edge = some (e, tr))
    (h : sampleStages x s = .ok (t, ev)) :
    t.edge = e ∧ Delivers (reportedBit s.cfg tr) s t ∧
      ∀ d, tr = some d → ev.trans = true ∧ ev.dur = d := by
  obtain ⟨e', tr', he', hcases⟩ := sampleStages_eq_ok h
  obtain ⟨rfl, rfl⟩ : e = e' ∧ tr = tr' := by
    simpa only [Option.some.injEq, Prod.mk.injEq] using he.symm.trans he'
  obtain ⟨rfl, rfl, -⟩ | ⟨d, rfl, hc, rfl, rfl⟩ | ⟨d, b, f, rfl, hc, hf, rfl, rfl⟩ |
    ⟨d, b, f, y, r, rfl, hc, hf, hr, rfl, rfl⟩ := hcases
  · exact ⟨rfl, .nil rfl rfl rfl rfl, nofun⟩
  · rw [reportedBit_of_ignore hc]
    exact ⟨rfl, .nil rfl rfl rfl rfl, fun _ hd => ⟨rfl, Option.some.inj hd⟩⟩
  · rw [reportedBit_of_bit hc]
    refine ⟨rfl, ⟨rfl, ?_, ?_⟩, fun _ hd => ⟨rfl, Option.some.inj hd⟩⟩
    · simp [pushBits, hf]
    · simp [pushBits, hf, submitBytes]
  · rw [reportedBit_of_bit hc]
    refine ⟨rfl, ⟨rfl, ?_, ?_⟩, fun _ hd => ⟨rfl, Option.some.inj hd⟩⟩
    · simp [pushBits, hf]
    · simp [pushBits, hf, submitBytes, hr]

/-! ### One sample with `W = 1` -/

/-- The Edge Detector with `W = 1` after sample `x`, with the run counted to `count`: its window is the
sample (R102). -/
def singleEdge (x : Int) (count : BitVec 16) : EdgeState :=
  { win := [x], sum := x, widx := 0, curSign := signOf x, runCnt := count }

/-- With `W = 1` the sum is the newest sample, so the report is decided by its sign alone (R104). -/
theorem edgeObserve_single {p : Params} {e : EdgeState} (h : EdgeInv p e) (hw : p.w = 1) (x : Int) :
    edgeObserve p x e = if signOf x = e.curSign then some (singleEdge x (satInc16 e.runCnt), none)
      else some (singleEdge x 1, some e.runCnt) := by
  obtain ⟨old, hwin⟩ := List.length_eq_one_iff.1 (h.length.trans hw)
  have hslot : e.widx = 0 := by have := h.slot; omega
  have hsum : e.sum - old + x = x := by
    rw [h.sum, hwin, List.sum_singleton]
    ring
  have hentry : e.win[e.widx]? = some old := by rw [hwin, hslot]; rfl
  rw [edgeObserve_of_entry hentry, edgeAfter, hsum, hwin, hslot, hw]
  split <;> rfl

/-- A sample of the recorded sign lengthens the run and does nothing else (R106). -/
theorem exec_sample_of_same_sign {s : State} {a : BitVec 28} (h : StateInv s) (hw : s.cfg.w = 1)
    (hsign : signOf (sampleOperand s.cfg a) = s.edge.curSign) :
    ∃ t, exec (.sample a) s = .next t ∧ StateInv t ∧ Delivers [] s t ∧
      t.edge.curSign = s.edge.curSign ∧ t.edge.runCnt.toNat = min (s.edge.runCnt.toNat + 1) 65535 := by
  obtain ⟨-, hedge, -⟩ := stateInv_iff.1 h
  have hobserve := edgeObserve_single hedge hw (sampleOperand s.cfg a)
  rw [if_pos hsign] at hobserve
  have hexec := exec_sample_of_ok (sampleStages_of_quiet hobserve)
  exact ⟨_, hexec, exec_inv h hexec, .nil rfl rfl rfl rfl, hsign, satInc16_toNat _⟩

/-- A sample of another sign ends the run: it reports the run's count, passes on its bit, and starts a run
of its own (R104, R105). -/
theorem exec_sample_of_other_sign {s : State} {a : BitVec 28} (h : StateInv s) (hw : s.cfg.w = 1)
    (hsign : signOf (sampleOperand s.cfg a) ≠ s.edge.curSign) :
    ∃ t, exec (.sample a) s = .next t ∧ StateInv t ∧
      Delivers (reportedBit s.cfg (some s.edge.runCnt)) s t ∧
      t.edge.curSign = signOf (sampleOperand s.cfg a) ∧ t.edge.runCnt = 1 ∧
      t.resp[30] = true ∧ t.resp.extractLsb' 0 16 = s.edge.runCnt := by
  obtain ⟨-, hedge, -⟩ := stateInv_iff.1 h
  have hobserve := edgeObserve_single hedge hw (sampleOperand s.cfg a)
  rw [if_neg hsign] at hobserve
  obtain ⟨⟨t, ev⟩, hstages⟩ := sampleStages_isOk_of_inv h (sampleOperand s.cfg a)
  obtain ⟨hedge', hdelivers, hreport⟩ := sampleStages_delivers hobserve hstages
  obtain ⟨htrans, hdur⟩ := hreport _ rfl
  have hexec := exec_sample_of_ok hstages
  refine ⟨_, hexec, exec_inv h hexec, ⟨hdelivers.cfg, hdelivers.framer, hdelivers.bytes⟩,
    ?_, ?_, ?_, ?_⟩
  · rw [respond_edge, hedge']; rfl
  · rw [respond_edge, hedge']; rfl
  · rw [respond_resp, sampleResp_trans, htrans]
  · rw [respond_resp, sampleResp_dur, hdur]

/-! ### Pulses -/

/-- Equal samples of the recorded sign lengthen the run by their number, up to saturation. -/
theorem runCommands_same_sign {s : State} {a : BitVec 28} (n : Nat) (h : StateInv s) (hw : s.cfg.w = 1)
    (hsign : signOf (sampleOperand s.cfg a) = s.edge.curSign) :
    ∃ t, runCommands (List.replicate n (.sample a)) s = .next t ∧ StateInv t ∧ Delivers [] s t ∧
      t.edge.curSign = s.edge.curSign ∧ t.edge.runCnt.toNat = min (s.edge.runCnt.toNat + n) 65535 := by
  induction n generalizing s with
  | zero => exact ⟨s, rfl, h, .nil rfl rfl rfl rfl, rfl, by omega⟩
  | succ n ih =>
    obtain ⟨u, hexec, hinv, hdelivers, hsign', hcount⟩ := exec_sample_of_same_sign h hw hsign
    obtain ⟨t, hrun, hinv', hdelivers', hsign'', hcount'⟩ := ih hinv (by rw [hdelivers.cfg, hw])
      (by rw [hdelivers.cfg, hsign, hsign'])
    refine ⟨t, ?_, hinv', hdelivers.append hdelivers', hsign''.trans hsign', by omega⟩
    rw [List.replicate_succ, runCommands_cons_of_next hexec, hrun]

/-- A pulse: its first sample ends the run before it, and its own run counts its samples up to
saturation (R105, R106). -/
theorem runCommands_pulse {s : State} {a : BitVec 28} {n : Nat} (hn : 1 ≤ n) (h : StateInv s)
    (hw : s.cfg.w = 1) (hsign : signOf (sampleOperand s.cfg a) ≠ s.edge.curSign) :
    ∃ t, runCommands (List.replicate n (.sample a)) s = .next t ∧ StateInv t ∧
      Delivers (reportedBit s.cfg (some s.edge.runCnt)) s t ∧
      t.edge.curSign = signOf (sampleOperand s.cfg a) ∧ t.edge.runCnt.toNat = min n 65535 := by
  obtain ⟨n, rfl⟩ := Nat.exists_eq_succ_of_ne_zero (Nat.ne_of_gt hn)
  obtain ⟨u, hexec, hinv, hdelivers, hsign', hone, -⟩ := exec_sample_of_other_sign h hw hsign
  obtain ⟨t, hrun, hinv', hdelivers', hsign'', hcount⟩ := runCommands_same_sign n hinv
    (by rw [hdelivers.cfg, hw]) (by rw [hdelivers.cfg, hsign'])
  refine ⟨t, ?_, hinv', ?_, hsign''.trans hsign', ?_⟩
  · rw [List.replicate_succ, runCommands_cons_of_next hexec, hrun]
  · simpa using hdelivers.append hdelivers'
  · rw [hcount, hone, Nat.succ_eq_add_one, Nat.add_comm]
    rfl

theorem signOf_ne_signOf_neg {v : Int} (hv : v ≠ 0) : signOf v ≠ signOf (-v) := by
  obtain hneg | hpos := lt_or_gt_of_ne hv
  · rw [signOf_neg hneg, signOf_pos (by omega)]
    decide
  · rw [signOf_pos hpos, signOf_neg (by omega)]
    decide

/-- Settles O40: the pulse's run counts to `n`, which saturation does not reach, and the sample after it
reports that count. -/
theorem pulseReportsItsLength : Obligations.PulseReportsItsLength := by
  intro s a b n h hw hn hmax hnonzero hbefore hafter
  have hopposite := signOf_ne_signOf_neg hnonzero
  obtain ⟨t, hrun, hinv, hdelivers, hsign, hcount⟩ :=
    runCommands_pulse (a := a) hn h hw (by rw [hbefore]; exact hopposite)
  obtain ⟨u, hexec, -, -, -, -, htrans, hdur⟩ := exec_sample_of_other_sign (a := b) hinv
    (by rw [hdelivers.cfg, hw]) (by rw [hdelivers.cfg, hsign, hafter]; exact hopposite.symm)
  refine ⟨t, u, hrun, hexec, htrans, ?_⟩
  rw [hdur, hcount]
  exact min_eq_left hmax

end Sys2Proof.Machine
end

section
/-! A transmission with `W = 1`: the pulses of a bit stream deliver its bits, and so the frames of a leader, a
record and an end block fill the record (95_test_vectors.md SRC-4, U15). -/

namespace Sys2Proof.Machine

/-- The samples of the pulse for a bit (U15). -/
def pulseLength (rect : Nat) (bit : Bool) : Nat := if bit then rect else 2 * rect

/-- In a legal configuration the run of a bit's pulse is classed as that bit, although it may saturate
(R106, R121). -/
theorem reportedBit_pulse {p : Params} {d : BitVec 16} {bit : Bool} (hp : p.legal = true)
    (hd : d.toNat = min (pulseLength p.rect bit) 65535) : reportedBit p (some d) = [bit] := by
  obtain ⟨⟨hpos, -⟩, -⟩ := Params.legal_iff.1 hp
  have hfits : tHi p + 1 < 2 ^ 16 := tHi_succ_lt hp
  refine reportedBit_of_bit ?_
  cases bit with
  | true =>
    refine classify_eq_one_iff.2 ?_
    simp only [pulseLength, tLo, tHi, if_true] at hd hfits ⊢
    omega
  | false =>
    refine classify_eq_zero_iff.2 ?_
    simp only [pulseLength, tHi, Bool.false_eq_true, if_false] at hd hfits ⊢
    omega

/-- From the end of any run, a pulse train delivers the bit of that run and then its own bits: every pulse
is ended by the first sample of the next, the last one by the closing sample. -/
theorem runCommands_pulseTrain {s : State} {a b : BitVec 28} (bits : List Bool) (h : StateInv s)
    (hw : s.cfg.w = 1) (hsign : signOf (sampleOperand s.cfg a) ≠ s.edge.curSign)
    (hopposite : signOf (sampleOperand s.cfg a) ≠ signOf (sampleOperand s.cfg b)) :
    ∃ t, runCommands (pulseTrain s.cfg.rect a b bits) s = .next t ∧
      Delivers (reportedBit s.cfg (some s.edge.runCnt) ++ bits) s t := by
  induction bits generalizing s a b with
  | nil =>
    obtain ⟨t, hexec, -, hdelivers, -⟩ := exec_sample_of_other_sign h hw hsign
    rw [List.append_nil]
    exact ⟨t, by rw [pulseTrain, runCommands_cons_of_next hexec]; rfl, hdelivers⟩
  | cons bit bits ih =>
    obtain ⟨⟨hpos, -⟩, -⟩ := Params.legal_iff.1 h.legal
    have hlength : 1 ≤ pulseLength s.cfg.rect bit := by unfold pulseLength; split <;> omega
    obtain ⟨u, hpulse, hinv, hdelivers, hsign', hcount⟩ := runCommands_pulse hlength h hw hsign
    rw [← hdelivers.cfg] at hw hopposite hsign' hcount
    have hbit : reportedBit u.cfg (some u.edge.runCnt) = [bit] := reportedBit_pulse hinv.legal hcount
    obtain ⟨t, hrest, hdelivers'⟩ := ih (a := b) (b := a) hinv hw (by rw [hsign']; exact hopposite.symm)
      hopposite.symm
    rw [hbit] at hdelivers'
    rw [hdelivers.cfg] at hrest
    refine ⟨t, runCommands_append_eq_next.2 ⟨u, hpulse, hrest⟩, ?_⟩
    simpa using hdelivers.append hdelivers'

/-- The bytes of a transmission take the synchronizer from the leader through the record to a satisfied end
block (R162 to R166). -/
theorem submitBytes_transmission {p : Params} {ys : List Byte} (hp : p.legal = true)
    (hlength : ys.length = 1987) :
    ∃ a, submitBytes p (List.replicate p.leadLen 0xFF ++ ys ++ List.replicate p.endLen 0xFF)
        (State.resetWith p).sync (State.resetWith p).asm = .ok ({ phase := .seekEnd, rem := 0#16 }, a) ∧
      a.wrPtr.val = 1987 ∧ ∀ k y, ys[k]? = some y → Memory.read a.record k = y := by
  obtain ⟨-, -, -, ⟨-, hend⟩, -⟩ := Params.legal_iff.1 hp
  obtain ⟨-, hleader, -⟩ := leaderTakesItsFullLength p (State.resetWith p).asm 0 0 hp
  obtain ⟨a, hrecord, hptr, hstored, -⟩ := submitBytes_record p hlength.le
  rw [if_pos hlength] at hrecord
  have hlast := submitBytes_endBlock p a (m := p.endLen) (by omega)
  refine ⟨a, ?_, hptr.trans hlength, hstored⟩
  rw [List.append_assoc]
  calc submitBytes p (List.replicate p.leadLen 0xFF ++ (ys ++ List.replicate p.endLen 0xFF))
          (State.resetWith p).sync (State.resetWith p).asm
      = submitBytes p (ys ++ List.replicate p.endLen 0xFF) { phase := .inStream, rem := 0 }
          { record := [], wrPtr := 0 } := submitBytes_append hleader _
    _ = submitBytes p (List.replicate p.endLen 0xFF) { phase := .seekEnd, rem := endRem p } a :=
        submitBytes_append hrecord _
    _ = .ok ({ phase := .seekEnd, rem := 0#16 }, a) := hlast

/-- Settles O56: the first transition after reset is no bit, so the framer gets exactly the bits of the
frames, reads them as the bytes sent, and these take the synchronizer to its end. -/
theorem transmissionFillsTheRecord : Obligations.TransmissionFillsTheRecord := by
  intro p a b ys hp hw ha hb hlength
  have hfirst : reportedBit p (some (State.resetWith p).edge.runCnt) = [] :=
    reportedBit_of_ignore (classify_of_le_tLo (Nat.zero_le _))
  obtain ⟨t, hrun, hdelivers⟩ := runCommands_pulseTrain (s := State.resetWith p) (a := a) (b := b)
    ((List.replicate p.leadLen 0xFF ++ ys ++ List.replicate p.endLen 0xFF).flatMap wireFrame)
    (resetWith_inv hp) hw (by rw [resetWith_cfg, signOf_pos ha]; exact nofun)
    (by rw [resetWith_cfg, signOf_pos ha, signOf_neg hb]; decide)
  rw [resetWith_cfg, hfirst, List.nil_append] at hdelivers
  obtain ⟨m, hbytes, hptr, hstored⟩ := submitBytes_transmission hp hlength
  have hend := hdelivers.bytes
  rw [(framerRecoversTheByteStream _ (State.resetWith p).framer rfl).1, resetWith_cfg, hbytes] at hend
  obtain ⟨hsync, hasm⟩ := Prod.mk.inj (Except.ok.inj hend)
  refine ⟨t, hrun, ?_⟩
  rw [← hsync, ← hasm]
  exact ⟨rfl, rfl, hptr, hstored⟩

end Sys2Proof.Machine
end
